-- ==== Sys2Proof/Config.lean ====
section
/-! DEFINITION. The implementation parameters of the CORE (spec rule R9) and the two electrical parameters that
the spec leaves OPEN and no rule reads (92_eei_decisions.md D15, D23).

The spec's other two OPEN parameters, `snap_oracle` (D12) and `conn_oracle` (D13), are the transport's answers.
They are free inputs, so they are no constants here: they stand in `State.inputs` as plain data, and a claim over
every state is a claim over every sequence of answers (assumption 1). -/

namespace Sys2Proof
namespace Config

/-- `N_CH`: channel capacity (R9). -/
abbrev nCh : Nat := 8

/-- `FIELD_W`: bits per channel field of a snapshot (R9). -/
abbrev fieldW : Nat := 2

/-- `SNAP_W`: snapshot width, `N_CH * FIELD_W` (R9). -/
abbrev snapW : Nat := nCh * fieldW

/-- `COUNT_W`: width of each count accumulator (R9). -/
abbrev countW : Nat := 32

/-- `CC_MAX`: the largest value of `configuredCount` (R9). -/
abbrev ccMax : Nat := nCh

/-- `CMD_W`: command word width (R9). -/
abbrev cmdW : Nat := 48

/-- `RSP_W`: response word width (R9). -/
abbrev rspW : Nat := 34

/-- `CC_RESET`: `configuredCount` after reset (R9, D10). -/
abbrev ccReset : Nat := 0

/-- `RST_LEVEL` (R95, D15): the electrical level at which `rst` is asserted. The spec leaves it OPEN and no rule
reads it: `Pins.rst` says "asserted", whatever the level is. -/
opaque rstLevel : Bool

/-- `PHASE_MAP` (R37, D23): whether encoder phase A drives the low bit of a channel's field. The spec leaves it
OPEN and no rule reads it. -/
opaque phaseAIsLowBit : Fin nCh → Bool

end Config
end Sys2Proof
end

