-- ==== Sys2Proof/Word.lean ====
section
/-! DEFINITION. The bit vectors of the CORE, at the widths of spec rule R9. -/

namespace Sys2Proof

/-- A count accumulator, read as two's complement (R18). -/
abbrev Count := BitVec 32

/-- A last position or a channel's field: 0 to 3 (R16, R19). -/
abbrev Position := BitVec 2

/-- One 16-bit sample of all channels (R16, R37). -/
abbrev Snapshot := BitVec 16

/-- The 48-bit command word, format `CMD48` (R47). -/
abbrev CommandWord := BitVec 48

/-- The 34-bit response word (R51). -/
abbrev ResponseWord := BitVec 34

/-- The opcode field of a command word, bits 47:40 (R47). -/
abbrev Opcode := BitVec 8

/-- The channel index field of a command word, bits 39:32 (R47): 0 to 255, of which 0 to 7 name a channel. -/
abbrev ChannelIndex := BitVec 8

/-- The argument field of a command word and the value field of a response word, bits 31:0 (R47, R51). -/
abbrev Data := BitVec 32

/-- The 4-bit register `cc` (R21, D26). -/
abbrev ChannelCount := BitVec 4

/-- A channel of the CORE: an index 0 to 7 (R29). -/
abbrev Channel := Fin Config.nCh

end Sys2Proof
end

