-- ==== Sys2Proof/Syntax.lean ====
section
/-! DEFINITION. The ten commands of the CORE, one constructor per row of spec/opcode_table.json (R49), and the two
pseudo-commands of the assembler (R57). -/

namespace Sys2Proof

/-- A command, with the operands R48 gives it. A command that does not use a field of the command word does not
carry it: R48 says an unused field is ignored. -/
inductive Instr where
  /-- INIT, `initialize(count)` (R59). -/
  | init (n : Data)
  /-- RESET_ALL, `resetAll()` (R60). -/
  | resetAll
  /-- PRIME, `primeFromCurrentState()` (R61). -/
  | prime
  /-- HAS_CHANGED, `hasChanged()` (R62). -/
  | hasChanged
  /-- UPDATE, `update()` (R73). -/
  | update
  /-- UPDATE_WEIGHTED, `updateWeighted()` (R74). -/
  | updateWeighted
  /-- GET_COUNT, `getCount(channel)` (R77). -/
  | getCount (ch : ChannelIndex)
  /-- SET_COUNT, `setCount(channel, value)` (R78). -/
  | setCount (ch : ChannelIndex) (value : Count)
  /-- GET_LAST_POSITION, `getLastPosition(channel)` (R79). -/
  | getLastPosition (ch : ChannelIndex)
  /-- GET_CONFIGURED_COUNT, `getConfiguredCount()` (R80). -/
  | getConfiguredCount
deriving DecidableEq, Repr

/-- The assembler's pseudo-commands: each expands to commands and has no opcode of its own (R57). -/
inductive Pseudo where
  /-- CLEAR_COUNT: zero one channel's count. -/
  | clearCount (ch : ChannelIndex)
  /-- START: the boot sequence of R100, after a RESET_ALL. -/
  | start (n : Data)
deriving DecidableEq, Repr

end Sys2Proof
end

