-- ==== Sys2Proof/WellFormed.lean ====
section
/-! DEFINITION. When a command word is well formed: its opcode is assigned (R49) and the fields its command does
not use are zero, as the assembler of R56 writes them.

A TERM of `Instr` needs no check: its operands are an 8-bit channel index and a 32-bit argument, and the spec gives
every value of both a meaning (an index of 8 or more is answered, R81; every `n` is clamped, R59; every count is
legal, R78). A WORD that is not well formed still has a meaning too: a reserved opcode is answered (R50), and unused
bits are ignored (R48). Well-formedness is what makes decoding and encoding inverse to each other. -/

namespace Sys2Proof

/-- `op` is one of the ten assigned opcodes, 0x01 to 0x0A (R49). -/
def opcodeAssigned (op : Opcode) : Bool :=
  decide (0x01 ≤ op.toNat) && decide (op.toNat ≤ 0x0A)

/-- The commands that use `ch`: GET_COUNT, SET_COUNT, GET_LAST_POSITION (R49). -/
def opcodeUsesCh (op : Opcode) : Bool :=
  op == 0x07#8 || op == 0x08#8 || op == 0x09#8

/-- The commands that use `data`: INIT and SET_COUNT (R49). -/
def opcodeUsesData (op : Opcode) : Bool :=
  op == 0x01#8 || op == 0x08#8

/-- A command word as the assembler writes it (R56): an assigned opcode, and zero in every unused field. -/
def wordWellFormed (w : CommandWord) : Bool :=
  let op : Opcode := w.extractLsb' 40 8
  opcodeAssigned op
    && (opcodeUsesCh op || w.extractLsb' 32 8 == 0#8)
    && (opcodeUsesData op || w.extractLsb' 0 32 == 0#32)

end Sys2Proof
end

