-- ==== Sys2Proof/Decode.lean ====
section
/-! DEFINITION. The decoder of R55, total on every 48-bit word, and the encoder of R49 and R56. -/

namespace Sys2Proof

/-- Why a word is no command. The CORE answers such a word (R50, `Machine.respondIllegal`): it is not a stop. -/
inductive DecodeError where
  /-- The opcode is 0x00 or 0x0B to 0xFF: reserved (R50). -/
  | reservedOpcode (op : Opcode)
deriving DecidableEq, Repr

/-- `op = w[47:40]` (R47). -/
def commandOp (w : CommandWord) : Opcode := w.extractLsb' 40 8

/-- `ch = w[39:32]` (R47). -/
def commandCh (w : CommandWord) : ChannelIndex := w.extractLsb' 32 8

/-- `data = w[31:0]` (R47). -/
def commandData (w : CommandWord) : Data := w.extractLsb' 0 32

/-- `decode(w)` of R55. The last arm is the rule's own `_ -> ILLEGAL`. -/
def decode (w : CommandWord) : Except DecodeError Instr :=
  match (commandOp w).toNat with
  | 0x01 => .ok (.init (commandData w))
  | 0x02 => .ok .resetAll
  | 0x03 => .ok .prime
  | 0x04 => .ok .hasChanged
  | 0x05 => .ok .update
  | 0x06 => .ok .updateWeighted
  | 0x07 => .ok (.getCount (commandCh w))
  | 0x08 => .ok (.setCount (commandCh w) (commandData w))
  | 0x09 => .ok (.getLastPosition (commandCh w))
  | 0x0A => .ok .getConfiguredCount
  | _ => .error (.reservedOpcode (commandOp w))

/-- The opcode of each command (R49). -/
def opcode : Instr → Opcode
  | .init _ => 0x01#8
  | .resetAll => 0x02#8
  | .prime => 0x03#8
  | .hasChanged => 0x04#8
  | .update => 0x05#8
  | .updateWeighted => 0x06#8
  | .getCount _ => 0x07#8
  | .setCount _ _ => 0x08#8
  | .getLastPosition _ => 0x09#8
  | .getConfiguredCount => 0x0A#8

/-- The `ch` field of each command; zero where it is unused (R56). -/
def chField : Instr → ChannelIndex
  | .init _ => 0
  | .resetAll => 0
  | .prime => 0
  | .hasChanged => 0
  | .update => 0
  | .updateWeighted => 0
  | .getCount ch => ch
  | .setCount ch _ => ch
  | .getLastPosition ch => ch
  | .getConfiguredCount => 0

/-- The `data` field of each command; zero where it is unused (R56). -/
def dataField : Instr → Data
  | .init n => n
  | .resetAll => 0
  | .prime => 0
  | .hasChanged => 0
  | .update => 0
  | .updateWeighted => 0
  | .getCount _ => 0
  | .setCount _ value => value
  | .getLastPosition _ => 0
  | .getConfiguredCount => 0

/-- `{op, ch, data}`, the most significant field first (R47, R11). -/
def packFields (op : Opcode) (ch : ChannelIndex) (data : Data) : CommandWord :=
  (op ++ ch ++ data).cast rfl

/-- The word of a command: `{op, ch, data}` with unused fields zero (R56). -/
def encode (i : Instr) : CommandWord :=
  packFields (opcode i) (chField i) (dataField i)

/-- The command word that the low `nbits` bits of `w` spell, bit 0 least significant: a command is one 48-bit word
(R47), and every bit above `nbits` is 0. -/
def tableWord (nbits w : Nat) : CommandWord :=
  BitVec.ofNat 48 (w % 2 ^ nbits)

/-- What the decoder reads from an opcode-table word. -/
def decodeTableWord (nbits w : Nat) : Option Instr :=
  match decode (tableWord nbits w) with
  | .ok i => some i
  | .error _ => none

end Sys2Proof
end

