-- ==== Sys2Proof/Machine/State.lean ====
section
/-! DEFINITION. The state of the CORE (R17) as plain data, its reset value (R28), and the model's own record of the
ports: what the environment does next, and what the CORE has done on its ports (assumptions 1, 2 and 3). -/

namespace Sys2Proof.Machine

open Sys2Proof

/-- The four commands that issue a snapshot read: the `op` of `WAIT_SNAP(op)` (R24). -/
inductive SnapOp where
  | prime
  | hasChanged
  | update
  | updateWeighted
deriving DecidableEq, Repr

/-- `phase`, the command-in-progress state (R24). -/
inductive Phase where
  /-- `IDLE`: no command is accepted and unanswered. -/
  | idle
  /-- `WAIT_SNAP(op)`: the snapshot read is issued and the transport has not answered. -/
  | waitSnap (op : SnapOp)
  /-- `WAIT_CONN(n)`: INIT's probe is issued and the transport has not answered. -/
  | waitConn (n : Data)
  /-- DEDUCED (assumption 4): the command has committed and its response word is offered and held (R53). R24 has no
  name for this state, and R53 puts it between the commit and the return to `IDLE`. -/
  | respond (r : ResponseWord)
deriving DecidableEq, Repr

/-- What the transport's acknowledge pin and data say in one step, for one of its two services. -/
inductive Answer (α : Type) where
  /-- No acknowledge. -/
  | absent
  /-- An acknowledge with its value. It answers the request the CORE has raised, if it has raised one. -/
  | fresh (v : α)
  /-- An acknowledge of a request that a reset has abandoned (R97). -/
  | late (v : α)
deriving DecidableEq, Repr

/-- The input ports of R46, as the environment (HOST, TRANSPORT and reset line) drives them in one step. -/
structure Pins where
  /-- `rst` is asserted. -/
  rst : Bool
  /-- `cmd_valid` with `cmd_word`. -/
  cmd : Option CommandWord
  /-- `rsp_ready`. -/
  rspReady : Bool
  /-- `snap_ack` with `snap_data`. -/
  snapAck : Answer Snapshot
  /-- `conn_ack` with `conn_ok`. -/
  connAck : Answer Bool
deriving DecidableEq, Repr

/-- What the CORE does on its ports that outlasts a step: a command word it accepts (R53), a bus transaction of the
transport (R41), or a response word that the HOST takes (R53). -/
inductive PortEvent where
  /-- A command word is accepted (`cmd_valid` and `cmd_ready`, R53), legal or reserved (R50). -/
  | command (w : CommandWord)
  /-- A snapshot read is requested (`snap_req`, R31). -/
  | snapRead
  /-- A connectivity probe is requested (`conn_req`, R33). -/
  | connProbe
  /-- A response word is transferred (`rsp_valid` and `rsp_ready`, R53). -/
  | response (r : ResponseWord)
deriving DecidableEq, Repr

/-- The machine. The first five fields are ALL the state the spec gives the CORE (R17); the last two are the
model's own (assumptions 1 and 3). -/
structure State where
  /-- `count[0..7]` (R18). -/
  count : Vector Count 8
  /-- `lastPos[0..7]` (R19). -/
  lastPos : Vector Position 8
  /-- `cc`, the active channel count (R21). -/
  cc : ChannelCount
  /-- `lastSnap`, the snapshot cache (R22). -/
  lastSnap : Snapshot
  /-- `phase` (R24). -/
  phase : Phase
  /-- The model's own: what the environment does in this step (the head) and in the steps after it. -/
  inputs : List Pins
  /-- The model's own: what the CORE has done on its ports so far, the newest first. -/
  trace : List PortEvent
deriving DecidableEq, Repr

/-- Why a step stops with a fault. There is no such reason: "The CORE raises no exception and takes no trap" (R82),
and every error is a value in a response word (R83). The type is empty, so no step can fault. -/
inductive Fault where
deriving DecidableEq, Repr

/-- Why an instruction has no meaning. -/
inductive Refusal where
  /-- Raised by an arm of `exec` whose instruction has no meaning yet. No arm raises it: all ten commands have
  their meaning. It is safe, since a refused run proves nothing about the hardware. -/
  | notModelled (mnemonic : String)
deriving DecidableEq, Repr

/-- The machine right after reset (R28). The environment's inputs are empty and nothing has happened on the
ports: those two are the model's own fields (assumptions 1 and 3). -/
def State.reset : State where
  count := Vector.replicate 8 0#32
  lastPos := Vector.replicate 8 0#2
  cc := BitVec.ofNat 4 Config.ccReset
  lastSnap := 0x0000#16
  phase := .idle
  inputs := []
  trace := []

end Sys2Proof.Machine
end

