-- ==== Sys2Proof/Machine/Operands.lean ====
section
/-! DEFINITION. Operand assembly (R48), the channel range test (R81), the snapshot's layout (R32, R37, R38) and the
Gray position (R66). -/

namespace Sys2Proof.Machine

open Sys2Proof

/-- `zext_32` (R12): a register or a field as a response's value. -/
def zext32 {k : Nat} (v : BitVec k) : Data := v.setWidth 32

/-- The unsigned channel index of a command word: `zext_32` of its 8-bit field (R48). -/
def channelIndex (ch : ChannelIndex) : Nat := (zext32 ch).toNat

/-- `in_range(ch)`, tested against the capacity and not against `cc` (R81). -/
def inRange (ch : ChannelIndex) : Bool := decide (channelIndex ch < Config.nCh)

/-- The channel an index names, if it is in range (R81). -/
def channelOf (ch : ChannelIndex) : Option Channel :=
  if h : channelIndex ch < Config.nCh then some ⟨channelIndex ch, h⟩ else none

/-- `min(n, 8)`, an unsigned comparison of the whole 32-bit argument (R59, D8). -/
def clampCount (n : Data) : ChannelCount := BitVec.ofNat 4 (min n.toNat Config.ccMax)

/-- `field(S, i) = (S >> (2*i)) & 0b11` (R38). -/
def field (S : Snapshot) (i : Channel) : Position :=
  ((S >>> (2 * i.val)) &&& 0b11#16).setWidth 2

/-- The snapshot that the transport combines from the two bytes it receives, `(MSB << 8) | LSB`, the most
significant byte first (R32). -/
def snapshotOfBytes (first second : BitVec 8) : Snapshot :=
  (first.setWidth 16 <<< 8) ||| second.setWidth 16

/-- The Gray position `g`: `g(0) = 0, g(1) = 1, g(3) = 2, g(2) = 3` (R66). -/
def grayPosition (p : Position) : Nat :=
  match p.toNat with
  | 0 => 0
  | 1 => 1
  | 2 => 3
  | _ => 2

/-- The step count `k = (g(cur) - g(prev)) mod 4` (R66). -/
def grayStep (prev cur : Position) : Nat :=
  (grayPosition cur + 4 - grayPosition prev) % 4

end Sys2Proof.Machine
end

