-- ==== Sys2Proof/Machine/Flags.lean ====
section
/-! DEFINITION. The CORE has no flag register (R26): the change flag and every success flag are the `ok` bit of a
response word. This file builds and reads response words (R51) and computes the change flag (R52, R72). -/

namespace Sys2Proof.Machine

open Sys2Proof

/-- The response word `{err, ok, data}` (R51). -/
def responseWord (err ok : Bool) (data : Data) : ResponseWord :=
  (BitVec.ofBool err ++ BitVec.ofBool ok ++ data).cast rfl

/-- Bit 33, `err` (R51). -/
def responseErr (r : ResponseWord) : Bool := r.getLsbD 33

/-- Bit 32, `ok` (R51). -/
def responseOk (r : ResponseWord) : Bool := r.getLsbD 32

/-- Bits 31:0, `data` (R51). -/
def responseData (r : ResponseWord) : Data := r.extractLsb' 0 32

/-- The illegal-command response `{1, 0, 0}` (R50). -/
def illegalResponse : ResponseWord := responseWord true false 0

/-- The change flag `S != lastSnap`, over all 16 bits (R22, R52, R62, R72). -/
def snapChanged (S lastSnap : Snapshot) : Bool := S != lastSnap

end Sys2Proof.Machine
end

