-- ==== Sys2Proof/Machine/Ops.lean ====
section
/-! DEFINITION. The named operations over the CORE's registers and ports: the environment's inputs, register
updates, the response (R14), the two transport requests (R31, R33), the illegal-command response (R50), the RESET
event (R96) and the output ports (R46).

The CORE takes no exception and returns from none (R82, R87, R88). What stands in that place is here: an error is
a response, `respond`, and the one event that breaks into a command is a reset, `resetEvent`. -/

namespace Sys2Proof.Machine

open Sys2Proof

/-! ### Inputs -/

/-- Pins on which the environment does nothing. -/
def Pins.quiet : Pins where
  rst := false
  cmd := none
  rspReady := false
  snapAck := .absent
  connAck := .absent

/-- The value an acknowledge delivers to the CORE. The answer to a request that a reset has abandoned is ignored
(R97). -/
def Answer.delivered {α : Type} : Answer α → Option α
  | .absent => none
  | .fresh v => some v
  | .late _ => none

/-- The input pins of this step. An environment whose inputs are used up does nothing more (assumption 1). -/
def State.pins (s : State) : Pins := s.inputs.headD Pins.quiet

/-- The environment's inputs are `l`. -/
def setInputs (l : List Pins) (s : State) : State := { s with inputs := l }

/-- This step's inputs are used up. -/
def tick (s : State) : State := { s with inputs := s.inputs.tail }

/-- `tick` on the next state of a command's meaning. -/
def tickOutcome : Host.Outcome State Fault Refusal → Host.Outcome State Fault Refusal
  | .next s => .next (tick s)
  | .fault f => .fault f
  | .refused r => .refused r

/-! ### Registers -/

/-- `count[i]` (R18). -/
def State.countAt (s : State) (i : Channel) : Count := s.count[i.val]

/-- `lastPos[i]` (R19). -/
def State.lastPosAt (s : State) (i : Channel) : Position := s.lastPos[i.val]

/-- Channel `i` is active: `i < cc` (R20). -/
def State.active (s : State) (i : Channel) : Bool := decide (i.val < s.cc.toNat)

/-- `count[i] <- v` (R13). -/
def writeCount (i : Channel) (v : Count) (s : State) : State :=
  { s with count := s.count.set i.val v }

/-- `lastPos[i] <- v` (R13). -/
def writeLastPos (i : Channel) (v : Position) (s : State) : State :=
  { s with lastPos := s.lastPos.set i.val v }

/-- `cc <- v` (R21). -/
def writeCc (v : ChannelCount) (s : State) : State := { s with cc := v }

/-- `lastSnap <- S` (R22). -/
def writeLastSnap (S : Snapshot) (s : State) : State := { s with lastSnap := S }

/-- `phase <- p` (R24). -/
def setPhase (p : Phase) (s : State) : State := { s with phase := p }

/-- Every count at once (R54: one commit). -/
def writeCounts (f : Channel → Count) (s : State) : State :=
  { s with count := Vector.ofFn f }

/-- Every last position at once (R54: one commit). -/
def writeLastPositions (f : Channel → Position) (s : State) : State :=
  { s with lastPos := Vector.ofFn f }

/-! ### Ports -/

/-- Something happens on a port of the CORE. -/
def record (e : PortEvent) (s : State) : State := { s with trace := e :: s.trace }

/-- `respond(err, ok, data)`: the command has committed and its response word is offered (R14, R53). -/
def respond (err ok : Bool) (data : Data) (s : State) : State :=
  setPhase (.respond (responseWord err ok data)) s

/-- A reserved command word is answered `{1, 0, 0}`; it changes no register and makes no request (R50). -/
def respondIllegal (s : State) : State := respond true false 0 s

/-- `SnapRead()` by the command `op` (R31): the request is raised. If the transport answers in this step, the
command commits on the answer; if not, the CORE waits in `WAIT_SNAP(op)` (R24, R35, R53). -/
def snapRead (op : SnapOp) (commit : Snapshot → State → State) (s : State) : State :=
  match s.pins.snapAck.delivered with
  | some S => commit S (record .snapRead s)
  | none => setPhase (.waitSnap op) (record .snapRead s)

/-- `ProbeConnected()` by INIT with argument `n` (R33): as `snapRead`, waiting in `WAIT_CONN(n)`. -/
def probeConnected (n : Data) (commit : Bool → State → State) (s : State) : State :=
  match s.pins.connAck.delivered with
  | some b => commit b (record .connProbe s)
  | none => setPhase (.waitConn n) (record .connProbe s)

/-- A response word is offered and held until the HOST takes it; then the command ends and `phase` returns to
`IDLE` (R53). -/
def offerResponse (r : ResponseWord) (s : State) : State :=
  if s.pins.rspReady then setPhase .idle (record (.response r) s) else s

/-- A RESET event: every piece of the CORE's state takes its reset value, and a command in progress is abandoned
with no response (R96, R97). The inputs and the port history are not the CORE's state and stay. -/
def resetEvent (s : State) : State :=
  { State.reset with inputs := s.inputs, trace := s.trace }

/-! ### Output ports (R46, R53, R96) -/

/-- `cmd_ready`: `phase = IDLE` and reset not asserted (R46). -/
def cmdReady (s : State) : Bool := decide (s.phase = .idle) && !s.pins.rst

/-- `rsp_word` with `rsp_valid` (R46): the response word offered, if one is. -/
def rspOffered (s : State) : Option ResponseWord :=
  if s.pins.rst then none else
    match s.phase with
    | .respond r => some r
    | .idle => none
    | .waitSnap _ => none
    | .waitConn _ => none

/-- `rsp_valid` (R46). -/
def rspValid (s : State) : Bool := (rspOffered s).isSome

/-- `snap_req`, as it is held while the CORE waits (R46, R53). -/
def snapReq (s : State) : Bool :=
  !s.pins.rst &&
    match s.phase with
    | .waitSnap _ => true
    | .idle => false
    | .waitConn _ => false
    | .respond _ => false

/-- `conn_req`, as it is held while the CORE waits (R46, R53). -/
def connReq (s : State) : Bool :=
  !s.pins.rst &&
    match s.phase with
    | .waitConn _ => true
    | .idle => false
    | .waitSnap _ => false
    | .respond _ => false

end Sys2Proof.Machine
end

