-- ==== Sys2Proof/Machine/Access.lean ====
section
/-! DEFINITION. The accessor commands GET_COUNT (R77), SET_COUNT (R78), GET_LAST_POSITION (R79) and
GET_CONFIGURED_COUNT (R80). None makes a transport request (R36). -/

namespace Sys2Proof.Machine

open Sys2Proof

/-- GET_COUNT (R77): any channel 0 to 7, active or not; an index out of range reads 0 and signals no failure. -/
def execGetCount (ch : ChannelIndex) (s : State) : Host.Outcome State Fault Refusal :=
  match channelOf ch with
  | some i => .next (respond false true (s.countAt i) s)
  | none => .next (respond false true 0x00000000#32 s)

/-- SET_COUNT (R78): any channel 0 to 7, active or not; an index out of range writes nothing and answers `ok = 0`. -/
def execSetCount (ch : ChannelIndex) (value : Count) (s : State) : Host.Outcome State Fault Refusal :=
  match channelOf ch with
  | some i => .next (respond false true 0 (writeCount i value s))
  | none => .next (respond false false 0 s)

/-- GET_LAST_POSITION (R79): as GET_COUNT, on the last position. -/
def execGetLastPosition (ch : ChannelIndex) (s : State) : Host.Outcome State Fault Refusal :=
  match channelOf ch with
  | some i => .next (respond false true (zext32 (s.lastPosAt i)) s)
  | none => .next (respond false true 0x00000000#32 s)

/-- GET_CONFIGURED_COUNT (R80). -/
def execGetConfiguredCount (s : State) : Host.Outcome State Fault Refusal :=
  .next (respond false true (zext32 s.cc) s)

end Sys2Proof.Machine
end

