-- ==== Sys2Proof/Machine/Engine.lean ====
section
/-! DEFINITION. The decode engine: the edge detector (R64 to R66), the two delta tables (R67, R68), the channel
lanes (R69 to R71), and the commands UPDATE (R73) and UPDATE_WEIGHTED (R74). -/

namespace Sys2Proof.Machine

open Sys2Proof

/-! ### Edge detector -/

/-- `code = (prev << 2) | cur` (R64). -/
def transitionCode (prev cur : Position) : BitVec 4 :=
  (prev.setWidth 4 <<< 2) ||| cur.setWidth 4

/-- The four transition classes (R66). -/
inductive StepClass where
  | noChange
  | forward
  | reverse
  | skip
deriving DecidableEq, Repr

/-- The class of each transition code, row by row as R65 lists them; the last arm is the one code left, `1111`. -/
def classify (code : BitVec 4) : StepClass :=
  match code.toNat with
  | 0b0000 => .noChange
  | 0b0001 => .forward
  | 0b0010 => .reverse
  | 0b0011 => .skip
  | 0b0100 => .reverse
  | 0b0101 => .noChange
  | 0b0110 => .skip
  | 0b0111 => .forward
  | 0b1000 => .forward
  | 0b1001 => .skip
  | 0b1010 => .noChange
  | 0b1011 => .reverse
  | 0b1100 => .skip
  | 0b1101 => .reverse
  | 0b1110 => .forward
  | _ => .noChange

/-! ### Accumulator -/

/-- `dU`, UPDATE's delta (R67). -/
def deltaU : StepClass → Int
  | .noChange => 0
  | .forward => 1
  | .reverse => -1
  | .skip => 0

/-- `dW`, UPDATE_WEIGHTED's delta (R68, conflict C1): a reverse step is a 3-step transition, and a skip counts +2
in either direction (R75). -/
def deltaW : StepClass → Int
  | .noChange => 0
  | .forward => 1
  | .reverse => 3
  | .skip => 2

/-- `c +32 sext_32(d)`: addition modulo 2^32, with no saturation and no flag (R12, R76). -/
def addDelta (c : Count) (d : Int) : Count := c + BitVec.ofInt 32 d

/-- The count of a lane after a snapshot that shows `cur`, under the delta table `d` (R69). -/
def laneCount (d : StepClass → Int) (c : Count) (prev cur : Position) : Count :=
  addDelta c (d (classify (transitionCode prev cur)))

/-- One channel lane as R69 writes it: the count, then the last position, unconditionally. -/
def lane (d : StepClass → Int) (S : Snapshot) (i : Channel) (s : State) : State :=
  writeLastPos i (field S i)
    (writeCount i (laneCount d (s.countAt i) (s.lastPosAt i) (field S i)) s)

/-- All active lanes in parallel, in one commit (R70, D22). An inactive lane does not run (R71). -/
def runLanes (d : StepClass → Int) (S : Snapshot) (s : State) : State :=
  writeLastPositions (fun i => if s.active i then field S i else s.lastPosAt i)
    (writeCounts
      (fun i => if s.active i then laneCount d (s.countAt i) (s.lastPosAt i) (field S i) else s.countAt i) s)

/-- The source's loop over `i = 0 .. cc-1`, one lane after another (R69, R73). The hardware does `runLanes`; R70
says the two agree. -/
def runLanesInOrder (d : StepClass → Int) (S : Snapshot) (s : State) : State :=
  (List.finRange Config.nCh).foldl (fun t i => if t.active i then lane d S i t else t) s

/-! ### Commands -/

/-- The commit shared by UPDATE and UPDATE_WEIGHTED on the snapshot `S`: the early exit, which writes nothing, or
the cache and the active lanes (R63, R69, R72). -/
def decodeCommit (d : StepClass → Int) (S : Snapshot) (s : State) : State :=
  if snapChanged S s.lastSnap then
    respond false true 0 (runLanes d S (writeLastSnap S s))
  else
    respond false false 0 s

/-- UPDATE's commit (R73). -/
def updateCommit (S : Snapshot) (s : State) : State := decodeCommit deltaU S s

/-- UPDATE (R73). -/
def execUpdate (s : State) : Host.Outcome State Fault Refusal :=
  .next (snapRead .update updateCommit s)

/-- UPDATE_WEIGHTED's commit (R74). -/
def updateWeightedCommit (S : Snapshot) (s : State) : State := decodeCommit deltaW S s

/-- UPDATE_WEIGHTED (R74). -/
def execUpdateWeighted (s : State) : Host.Outcome State Fault Refusal :=
  .next (snapRead .updateWeighted updateWeightedCommit s)

end Sys2Proof.Machine
end

