-- ==== Sys2Proof/Machine/Sampling.lean ====
section
/-! DEFINITION. The sampling commands PRIME (R61) and HAS_CHANGED (R62). -/

namespace Sys2Proof.Machine

open Sys2Proof

/-- PRIME's commit on the snapshot `S`: the cache and the active channels' last positions are loaded, no count is
written, and the raw snapshot is returned (R61). There is no early exit. -/
def primeCommit (S : Snapshot) (s : State) : State :=
  respond false true (zext32 S)
    (writeLastPositions (fun i => if s.active i then field S i else s.lastPosAt i)
      (writeLastSnap S s))

/-- PRIME (R61). -/
def execPrime (s : State) : Host.Outcome State Fault Refusal :=
  .next (snapRead .prime primeCommit s)

/-- HAS_CHANGED's commit on the snapshot `S`: the change flag, and no register written (R62). -/
def hasChangedCommit (S : Snapshot) (s : State) : State :=
  respond false (snapChanged S s.lastSnap) 0 s

/-- HAS_CHANGED (R62). -/
def execHasChanged (s : State) : Host.Outcome State Fault Refusal :=
  .next (snapRead .hasChanged hasChangedCommit s)

end Sys2Proof.Machine
end

