-- ==== Sys2Proof/Machine/Setup.lean ====
section
/-! DEFINITION. The setup commands INIT (R59) and RESET_ALL (R60). -/

namespace Sys2Proof.Machine

open Sys2Proof

/-- INIT's commit, on the probe's answer: `cc <- min(n, 8)` whatever the answer is, and `ok` is the answer (R59). -/
def initCommit (n : Data) (connected : Bool) (s : State) : State :=
  respond false connected 0 (writeCc (clampCount n) s)

/-- INIT (R59): one probe, then the commit. -/
def execInit (n : Data) (s : State) : Host.Outcome State Fault Refusal :=
  .next (probeConnected n (initCommit n) s)

/-- RESET_ALL (R60): every count, every last position and the snapshot cache are zeroed; `cc` is not written. -/
def execResetAll (s : State) : Host.Outcome State Fault Refusal :=
  .next (respond false true 0
    (writeLastSnap 0x0000#16
      (writeLastPositions (fun _ => 0b00#2)
        (writeCounts (fun _ => 0x00000000#32) s))))

end Sys2Proof.Machine
end

