-- ==== Sys2Proof/Machine/Dispatch.lean ====
section
/-! DEFINITION. The meaning of each command: one arm per constructor of Instr. -/

namespace Sys2Proof.Machine

open Sys2Proof

/-- What an accepted command does (R53, R54): its transport request, and, where the transport answers in the same
step or none is asked, its commit and its response. -/
def exec (i : Instr) (s : State) : Host.Outcome State Fault Refusal :=
  match i with
  -- setup
  | .init n => Sys2Proof.Machine.execInit n s
  | .resetAll => Sys2Proof.Machine.execResetAll s
  -- sampling
  | .prime => Sys2Proof.Machine.execPrime s
  | .hasChanged => Sys2Proof.Machine.execHasChanged s
  -- decode
  | .update => Sys2Proof.Machine.execUpdate s
  | .updateWeighted => Sys2Proof.Machine.execUpdateWeighted s
  -- access
  | .getCount ch => Sys2Proof.Machine.execGetCount ch s
  | .setCount ch value => Sys2Proof.Machine.execSetCount ch value s
  | .getLastPosition ch => Sys2Proof.Machine.execGetLastPosition ch s
  | .getConfiguredCount => Sys2Proof.Machine.execGetConfiguredCount s

end Sys2Proof.Machine
end

