-- ==== Sys2Proof/Machine/Transport.lean ====
section
/-! DEFINITION. A command that waits for the transport (R24, R35, R53): the commit when the answer comes, and
nothing until then. -/

namespace Sys2Proof.Machine

open Sys2Proof

/-- The command whose snapshot read `WAIT_SNAP(op)` waits for. -/
def snapInstr : SnapOp → Instr
  | .prime => .prime
  | .hasChanged => .hasChanged
  | .update => .update
  | .updateWeighted => .updateWeighted

/-- The commit of the waiting command `op` on the snapshot the transport delivers. -/
def snapCommit : SnapOp → Snapshot → State → State
  | .prime => primeCommit
  | .hasChanged => hasChangedCommit
  | .update => updateCommit
  | .updateWeighted => updateWeightedCommit

/-- One step in `WAIT_SNAP(op)`: the command commits when the answer comes, and there is no timeout (R35). -/
def waitForSnap (op : SnapOp) (s : State) : State :=
  match s.pins.snapAck.delivered with
  | some S => snapCommit op S s
  | none => s

/-- One step in `WAIT_CONN(n)` (R35). -/
def waitForConn (n : Data) (s : State) : State :=
  match s.pins.connAck.delivered with
  | some b => initCommit n b s
  | none => s

end Sys2Proof.Machine
end

