-- ==== Sys2Proof/Machine/Step.lean ====
section
/-! DEFINITION. One step of the machine (R53, R96 to R98, R108), and where its next command word is put. -/

namespace Sys2Proof.Machine

open Sys2Proof

/-- The port history after the CORE has accepted the command word `w` (R53); no register changes. -/
def acceptCommand (w : CommandWord) (s : State) : State := record (.command w) s

/-- One step: what the CORE does on this step's input pins, after which they are used up. Reset wins over
everything (R86, R98). A command word is accepted only in `IDLE` (R53); in every other phase it is not looked at. -/
def step (s : State) : Host.Outcome State Fault Refusal :=
  if s.pins.rst then
    .next (tick (resetEvent s))
  else
    match s.phase with
    | .idle =>
      match s.pins.cmd with
      | none => .next (tick s)
      | some w =>
        match decode w with
        | .ok i => tickOutcome (exec i (acceptCommand w s))
        | .error _ => .next (tick (respondIllegal (acceptCommand w s)))
    | .waitSnap op => .next (tick (waitForSnap op s))
    | .waitConn n => .next (tick (waitForConn n s))
    | .respond r => .next (tick (offerResponse r s))

/-- The HOST offers the word on the command port in the next step, with the CORE in `IDLE` and reset not asserted.
Nothing else of the step's pins changes (assumption 5). -/
def State.withFetchWord (s : State) (nbits w : Nat) : State :=
  { s with
    phase := .idle
    inputs := { s.pins with rst := false, cmd := some (tableWord nbits w) } :: s.inputs.tail }

end Sys2Proof.Machine
end

