-- ==== Sys2Proof/Machine/Assembler.lean ====
section
/-! DEFINITION. The assembler's notation (R56) and the expansion of its pseudo-commands (R57). It is notation only
(D21): no step of the CORE reads it. -/

namespace Sys2Proof

/-- The commands a pseudo-command expands to (R57). -/
def Pseudo.expand : Pseudo → List Instr
  | .clearCount ch => [.setCount ch 0]
  | .start n => [.resetAll, .init n, .prime]

namespace Asm

/-- Why a line is no line of R56. -/
inductive Error where
  /-- The first token is no mnemonic, pseudo-command or `.word`. -/
  | unknownMnemonic
  /-- The operands are too many or too few, or their comma is missing. -/
  | wrongOperands
  /-- An operand is no number, or it lies outside the range R56 gives it. -/
  | badNumber
deriving DecidableEq, Repr

/-- The line without its comment: `;` starts one. -/
def withoutComment (line : List Char) : List Char := line.takeWhile (fun c => c != ';')

/-- A token that has been read, put before the tokens after it. -/
def pushToken (tok : List Char) (rest : List (List Char)) : List (List Char) :=
  if tok.isEmpty then rest else tok.reverse :: rest

/-- The tokens of a line: blanks separate them, and a comma is a token of its own. `tok` is the token being read,
its last character first. -/
def tokensFrom (tok : List Char) : List Char → List (List Char)
  | [] => pushToken tok []
  | c :: cs =>
    if c == ' ' || c == '\t' then pushToken tok (tokensFrom [] cs)
    else if c == ',' then pushToken tok ([','] :: tokensFrom [] cs)
    else tokensFrom (c :: tok) cs

/-- The value of a digit character in base 16. -/
def digitValue (c : Char) : Option Nat :=
  let k := c.toNat
  if '0'.toNat ≤ k && k ≤ '9'.toNat then some (k - '0'.toNat)
  else if 'a'.toNat ≤ k && k ≤ 'f'.toNat then some (k - 'a'.toNat + 10)
  else if 'A'.toNat ≤ k && k ≤ 'F'.toNat then some (k - 'A'.toNat + 10)
  else none

/-- The number that digits spell in a base, after the digits that gave `acc`. -/
def digitsFrom (base acc : Nat) : List Char → Option Nat
  | [] => some acc
  | c :: cs =>
    match digitValue c with
    | some d => if d < base then digitsFrom base (acc * base + d) cs else none
    | none => none

/-- A number of at least one digit. -/
def digits (base : Nat) : List Char → Option Nat
  | [] => none
  | c :: cs => digitsFrom base 0 (c :: cs)

/-- A `0x` hex number. -/
def hexNumber : List Char → Option Nat
  | '0' :: 'x' :: ds => digits 16 ds
  | _ => none

/-- An unsigned decimal or `0x` hex number. -/
def unsignedNumber (tok : List Char) : Option Nat :=
  match hexNumber tok with
  | some k => some k
  | none => digits 10 tok

/-- A value below `2 ^ width`, as bits. -/
def bounded (width : Nat) : Option Nat → Except Error (BitVec width)
  | some k => if k < 2 ^ width then .ok (BitVec.ofNat width k) else .error .badNumber
  | none => .error .badNumber

/-- `n` of INIT: unsigned, 0 to 4294967295. -/
def parseN (tok : List Char) : Except Error Data := bounded 32 (unsignedNumber tok)

/-- `ch`: 0 to 255, in decimal or `0x` hex. R56 gives the range of `ch` and does not say whether hex is allowed;
accepting it, as for `n` and `value`, is a DESIGN CHOICE (assumption 11). -/
def parseCh (tok : List Char) : Except Error ChannelIndex := bounded 8 (unsignedNumber tok)

/-- `value` of SET_COUNT: signed decimal, or `0x` hex of 32 bits. -/
def parseValue (tok : List Char) : Except Error Count :=
  match tok with
  | '-' :: ds =>
    match digits 10 ds with
    | some k => if k ≤ 2 ^ 31 then .ok (BitVec.ofInt 32 (-(k : Int))) else .error .badNumber
    | none => .error .badNumber
  | _ =>
    match hexNumber tok with
    | some k => bounded 32 (some k)
    | none =>
      match digits 10 tok with
      | some k => if k < 2 ^ 31 then .ok (BitVec.ofNat 32 k) else .error .badNumber
      | none => .error .badNumber

/-- Twelve hex digits after `0x`: a raw command word. -/
def parseWord (tok : List Char) : Except Error CommandWord :=
  if tok.length = 14 then bounded 48 (hexNumber tok) else .error .badNumber

/-- A command without operands. -/
def noOperand (args : List (List Char)) (i : Instr) : Except Error (List CommandWord) :=
  match args with
  | [] => .ok [encode i]
  | _ => .error .wrongOperands

/-- A command, or a pseudo-command, of one operand. -/
def oneOperand {α : Type} (args : List (List Char)) (parse : List Char → Except Error α)
    (words : α → List CommandWord) : Except Error (List CommandWord) :=
  match args with
  | [a] => (parse a).map words
  | _ => .error .wrongOperands

/-- `SET_COUNT ch, value`. -/
def setCountOperands (args : List (List Char)) : Except Error (List CommandWord) :=
  match args with
  | [c, [','], v] =>
    match parseCh c with
    | .ok ch => (parseValue v).map (fun value => [encode (.setCount ch value)])
    | .error e => .error e
  | _ => .error .wrongOperands

/-- The words a tokenised line stands for. -/
def lineWords : List (List Char) → Except Error (List CommandWord)
  | [] => .ok []
  | m :: args =>
    if m = "INIT".toList then oneOperand args parseN (fun n => [encode (.init n)])
    else if m = "RESET_ALL".toList then noOperand args .resetAll
    else if m = "PRIME".toList then noOperand args .prime
    else if m = "HAS_CHANGED".toList then noOperand args .hasChanged
    else if m = "UPDATE".toList then noOperand args .update
    else if m = "UPDATE_WEIGHTED".toList then noOperand args .updateWeighted
    else if m = "GET_COUNT".toList then oneOperand args parseCh (fun ch => [encode (.getCount ch)])
    else if m = "SET_COUNT".toList then setCountOperands args
    else if m = "GET_LAST_POSITION".toList then
      oneOperand args parseCh (fun ch => [encode (.getLastPosition ch)])
    else if m = "GET_CONFIGURED_COUNT".toList then noOperand args .getConfiguredCount
    else if m = ".word".toList then oneOperand args parseWord (fun w => [w])
    else if m = "CLEAR_COUNT".toList then
      oneOperand args parseCh (fun ch => (Pseudo.clearCount ch).expand.map encode)
    else if m = "START".toList then oneOperand args parseN (fun n => (Pseudo.start n).expand.map encode)
    else .error .unknownMnemonic

/-- The command words of one line of assembler text (R56, R57): none for a blank line or a comment, several for a
pseudo-command. -/
def assembleLine (line : String) : Except Error (List CommandWord) :=
  lineWords (tokensFrom [] (withoutComment line.toList))

end Asm
end Sys2Proof
end

