-- ==== Sys2Proof/Safety.lean ====
section
/-! DEFINITION. The terms in which claims speak of good states and good runs: the machine's invariant, the relation
of R23 between positions and cache, a run of a HOST program and its end (R109), when the CORE answers (R51), and the
HOST's duty of R102 with the rotation it protects. -/

namespace Sys2Proof.Machine

open Sys2Proof

/-- A response word that the CORE may offer: `err = 1` stands only in the illegal-command response (R50, R51). -/
def legalResponse (r : ResponseWord) : Prop := responseErr r = true → r = illegalResponse

/-- The machine's invariant: `cc` holds 0 to 8 (R21), and an offered response word is a legal one (R51). -/
def Inv (s : State) : Prop :=
  s.cc.toNat ≤ Config.ccMax ∧ ∀ r, s.phase = .respond r → legalResponse r

/-- The relation of R23: every active channel's last position is its field of the snapshot cache. -/
def Tracks (s : State) : Prop :=
  ∀ i : Channel, s.active i = true → s.lastPosAt i = field s.lastSnap i

/-! ### Port histories and runs (R51, R53, R109; assumption 13)

A run is what happens on the ports after some earlier history `start`: the events that `trace` has gained since.
Histories are the newest event first. -/

/-- The command words accepted in a history, the first accepted first. -/
def commandsAccepted : List PortEvent → List CommandWord
  | [] => []
  | .command w :: earlier => commandsAccepted earlier ++ [w]
  | .snapRead :: earlier => commandsAccepted earlier
  | .connProbe :: earlier => commandsAccepted earlier
  | .response _ :: earlier => commandsAccepted earlier

/-- The last command accepted in a history, if its response has not been taken. -/
def openCommand : List PortEvent → Option CommandWord
  | [] => none
  | .command w :: _ => some w
  | .snapRead :: earlier => openCommand earlier
  | .connProbe :: earlier => openCommand earlier
  | .response _ :: _ => none

/-- Every response of a history answers the last command accepted before it, and no command has two (R51). -/
def responsesAnswerCommands : List PortEvent → Bool
  | [] => true
  | .command _ :: earlier => responsesAnswerCommands earlier
  | .snapRead :: earlier => responsesAnswerCommands earlier
  | .connProbe :: earlier => responsesAnswerCommands earlier
  | .response _ :: earlier => (openCommand earlier).isSome && responsesAnswerCommands earlier

/-- `s` is reached in a run that began in `IDLE` with the history `start`: every response taken since answers a
command accepted since, and a command in progress is the last one accepted since (R24, R51, R53). -/
def InRun (start : List PortEvent) (s : State) : Prop :=
  ∃ events, s.trace = events ++ start ∧ responsesAnswerCommands events = true ∧
    (s.phase ≠ .idle → (openCommand events).isSome = true)

/-- The run of the HOST program `program` that began with the history `start` has ended in `s` (R109): exactly the
program's commands have been accepted since, the response to the last of them has been taken, and `phase` is `IDLE`. A
command that a reset has abandoned has no response, and a word offered while the CORE was busy is not accepted:
neither ends a run. -/
def RunEnded (start : List PortEvent) (program : List CommandWord) (s : State) : Prop :=
  s.phase = .idle ∧
    ∃ events, s.trace = events ++ start ∧ commandsAccepted events = program ∧ openCommand events = none

/-- Unless a command with INIT's opcode has been accepted since the history was `start`, `cc` is 0 and no INIT is
waiting. -/
def UnconfiguredUntilInit (start : List PortEvent) (s : State) : Prop :=
  ∃ events, s.trace = events ++ start ∧
    ((∀ w ∈ commandsAccepted events, commandOp w ≠ 0x01#8) → s.cc = 0#4 ∧ ∀ n, s.phase ≠ .waitConn n)

/-- A command word is accepted in this step (R53). -/
def accepts (s : State) : Bool := cmdReady s && s.pins.cmd.isSome

/-- How many response words the HOST has taken so far. -/
def responsesTaken (s : State) : Nat :=
  s.trace.countP fun e =>
    match e with
    | .response _ => true
    | .command _ => false
    | .snapRead => false
    | .connProbe => false

/-- How many commands are accepted and unanswered: none in `IDLE`, else one (R24, R53). -/
def outstanding (s : State) : Nat := if s.phase = .idle then 0 else 1

/-- The field that a channel shows at rotation position `p`: the forward sequence 0 -> 1 -> 3 -> 2 -> 0 (R16). -/
def fieldAtRotation (p : Int) : Position :=
  match (p % 4).toNat with
  | 0 => 0b00#2
  | 1 => 0b01#2
  | 2 => 0b11#2
  | _ => 0b10#2

/-- Pins on which the transport answers a snapshot read with `S`, and nothing else happens. -/
def answeringSnap (S : Snapshot) : Pins := { Pins.quiet with snapAck := .fresh S }

/-- `t` is reached from `s` by one UPDATE for each snapshot of the list, each answered with its snapshot. -/
def Polled : List Snapshot → State → State → Prop
  | [], s, t => t = s
  | S :: rest, s, t =>
    ∃ u, exec .update (setInputs [answeringSnap S] s) = .next u ∧ Polled rest u t

/-- The sampling condition of R102 for channel `i`: each snapshot shows the channel at a rotation position at most
one Gray step from the one before it. `p` is the position before the first snapshot and `q` the last one. -/
def SampledOften (i : Channel) : List Snapshot → Int → Int → Prop
  | [], p, q => q = p
  | S :: rest, p, q =>
    ∃ p', (p' - p).natAbs ≤ 1 ∧ field S i = fieldAtRotation p' ∧ SampledOften i rest p' q

end Sys2Proof.Machine
end

