-- ==== Sys2Proof/Certificates/Slice0/Obligations.lean ====
section
/-! DEFINITION. The statements for the provers. Each says what a rule of the spec says of the machine; where a
statement rests on a choice of the model, its docstring names the assumption.

How the statements write what the rules say, throughout: "the transport answers `S`" is
`s.pins.snapAck.delivered = some S` (assumptions 1 and 2); "the command answers `{err, ok, data}`" is
`phase = .respond (responseWord err ok data)`, the response offered and held (assumption 4); an accepted command
word and a transport request are entries of `trace` (assumption 3). An equation `exec i s = .next { s with … }` is also the frame: every field of the
state that it does not name is unchanged. -/

open Sys2Proof Sys2Proof.Machine

/-! ### Reset -/

/-- R28: what every piece of state holds after reset. -/
def Obligations.ResetStateHoldsSpecValues : Prop :=
  (∀ i : Channel, State.reset.countAt i = 0x00000000#32) ∧
  (∀ i : Channel, State.reset.lastPosAt i = 0b00#2) ∧
  State.reset.lastSnap = 0x0000#16 ∧ State.reset.cc = 0#4 ∧ State.reset.phase = .idle

/-- R96, and R98 by the command that the same pins may offer: in every phase, a step with reset asserted leaves the
reset values. No response is transferred and no request is made (the trace is unchanged), and every output port is
low while reset is asserted. -/
def Obligations.ResetEventOverridesEveryPhase : Prop :=
  ∀ s : State, s.pins.rst = true →
    step s = .next { State.reset with inputs := s.inputs.tail, trace := s.trace } ∧
    cmdReady s = false ∧ rspValid s = false ∧ snapReq s = false ∧ connReq s = false

/-- R97, with the model's own form of a late answer (assumption 2): an answer to a request that a reset has abandoned
changes no step, in any phase and beside any other input. -/
def Obligations.LateTransportAnswerIsIgnored : Prop :=
  ∀ (s : State) (p : Pins) (rest : List Pins),
    (∀ S : Snapshot,
      step (setInputs ({ p with snapAck := .late S } :: rest) s)
        = step (setInputs ({ p with snapAck := .absent } :: rest) s)) ∧
    (∀ b : Bool,
      step (setInputs ({ p with connAck := .late b } :: rest) s)
        = step (setInputs ({ p with connAck := .absent } :: rest) s))

/-- R99: RESET_ALL leaves the counts, positions and cache that a reset leaves; it keeps `cc`, which a reset zeroes. -/
def Obligations.ResetAllClearsWhatResetClears : Prop :=
  ∀ s : State, ∃ t, exec .resetAll s = .next t ∧
    t.count = (resetEvent s).count ∧ t.lastPos = (resetEvent s).lastPos ∧
    t.lastSnap = (resetEvent s).lastSnap ∧ t.cc = s.cc ∧ (resetEvent s).cc = 0#4 ∧
    (resetEvent s).phase = .idle

/-! ### Encoding -/

/-- R47, R49, R55, R56: the decoder reads back every command from its word, with every operand value. -/
def Obligations.DecodeEncodeGivesCommandBack : Prop :=
  ∀ i : Instr, decode (encode i) = .ok i

/-- R55, R56: a well-formed word is the word of the command it decodes to, so the decoder drops no bit of it. -/
def Obligations.EncodeDecodeGivesWellFormedWordBack : Prop :=
  ∀ w : CommandWord, wordWellFormed w = true → ∃ i, decode w = .ok i ∧ encode i = w

/-- R49, R50: a word is a command, any command, exactly when its opcode is 0x01 to 0x0A; the command it is has that
opcode. -/
def Obligations.DecodeAcceptsExactlyAssignedOpcodes : Prop :=
  ∀ w : CommandWord,
    ((∃ i, decode w = .ok i) ↔
      (0x01 ≤ (w.extractLsb' 40 8).toNat ∧ (w.extractLsb' 40 8).toNat ≤ 0x0A)) ∧
    (∀ i, decode w = .ok i → opcode i = w.extractLsb' 40 8)

/-- R48: a field that a command does not use has no effect on what the word decodes to. -/
def Obligations.DecodeReadsOnlyUsedFields : Prop :=
  ∀ w v : CommandWord,
    w.extractLsb' 40 8 = v.extractLsb' 40 8 →
    (opcodeUsesCh (w.extractLsb' 40 8) = true → w.extractLsb' 32 8 = v.extractLsb' 32 8) →
    (opcodeUsesData (w.extractLsb' 40 8) = true → w.extractLsb' 0 32 = v.extractLsb' 0 32) →
    decode w = decode v

/-- Words written out from the encodings of R59 to R80 decode to their commands. -/
def Obligations.DecodeReadsSampleWords : Prop :=
  decode 0x01000000000C#48 = .ok (.init 12) ∧
  decode 0x020000000000#48 = .ok .resetAll ∧
  decode 0x030000000000#48 = .ok .prime ∧
  decode 0x05AB12345678#48 = .ok .update ∧
  decode 0x07FF00000000#48 = .ok (.getCount 255) ∧
  decode 0x0803FFFFFFFF#48 = .ok (.setCount 3 0xFFFFFFFF#32) ∧
  decode 0x0A0700000009#48 = .ok .getConfiguredCount ∧
  decode 0x0B0000000000#48 = .error (.reservedOpcode 0x0B)

/-- R51: a response word is its three fields, `err` at bit 33, `ok` at bit 32 and `data` at bits 31:0. -/
def Obligations.ResponseWordIsItsThreeFields : Prop :=
  (∀ (err ok : Bool) (data : Data),
    (responseWord err ok data).getLsbD 33 = err ∧ (responseWord err ok data).getLsbD 32 = ok ∧
      (responseWord err ok data).extractLsb' 0 32 = data) ∧
  ∀ r : ResponseWord, responseWord (responseErr r) (responseOk r) (responseData r) = r

/-- R57: the expansion of the two pseudo-commands. -/
def Obligations.PseudoCommandsExpandToCommands : Prop :=
  (∀ ch : ChannelIndex, (Pseudo.clearCount ch).expand = [.setCount ch 0]) ∧
  (∀ n : Data, (Pseudo.start n).expand = [.resetAll, .init n, .prime])

/-! ### The step -/

/-- R53, R55: with the CORE in `IDLE` and no reset, the offered word's command is run, and the step adds nothing to
it but that the word's acceptance is recorded before it (assumption 3) and this step's inputs are used up after it. -/
def Obligations.StepRunsDecodedCommand : Prop :=
  ∀ (s : State) (w : CommandWord) (i : Instr),
    s.pins.rst = false → s.phase = .idle → s.pins.cmd = some w → decode w = .ok i →
    ∃ t, exec i { s with trace := .command w :: s.trace } = .next t ∧
      step s = .next (setInputs s.inputs.tail t)

/-- The same of a word that `withFetchWord` puts on the command port (assumption 5). -/
def Obligations.StepRunsFetchedTableWord : Prop :=
  ∀ (s : State) (nbits w : Nat) (i : Instr), decodeTableWord nbits w = some i →
    ∃ t, exec i (acceptCommand (tableWord nbits w) (s.withFetchWord nbits w)) = .next t ∧
      step (s.withFetchWord nbits w) = .next (setInputs s.inputs.tail t)

/-- R50: a reserved command word is accepted and answered `{1, 0, 0}`; no register changes and no transport request
is made (the trace gains the accepted word alone). -/
def Obligations.ReservedOpcodeIsAnsweredIllegal : Prop :=
  ∀ (s : State) (w : CommandWord),
    s.pins.rst = false → s.phase = .idle → s.pins.cmd = some w →
    ((w.extractLsb' 40 8).toNat = 0x00 ∨ 0x0B ≤ (w.extractLsb' 40 8).toNat) →
    (∀ i, decode w ≠ .ok i) ∧
    step s = .next { s with
      phase := .respond (responseWord true false 0), inputs := s.inputs.tail, trace := .command w :: s.trace }

/-- The model's choice, assumption 9 (DEDUCED from R82 and R83: `Fault` is empty and no arm of `exec` refuses): no
step of any state faults or is refused. For a state whose inputs are used up it is assumption 1 (DESIGN CHOICE) that
there is a step at all, on quiet pins. -/
def Obligations.EveryStepHasNextState : Prop :=
  ∀ s : State, ∃ t, step s = .next t

/-- R46, R53: the output ports, as functions of the phase and of reset. `snap_req` and `conn_req` are stated as they
are held while the CORE waits. -/
def Obligations.OutputPortsFollowPhase : Prop :=
  ∀ s : State,
    (cmdReady s = true ↔ s.phase = .idle ∧ s.pins.rst = false) ∧
    (∀ r, rspOffered s = some r ↔ s.phase = .respond r ∧ s.pins.rst = false) ∧
    (snapReq s = true ↔ (∃ op, s.phase = .waitSnap op) ∧ s.pins.rst = false) ∧
    (connReq s = true ↔ (∃ n, s.phase = .waitConn n) ∧ s.pins.rst = false)

/-- R35, R53: without an answer and without reset, a waiting command waits on, its request held, and nothing
changes. -/
def Obligations.WaitingCommandHoldsUntilAnswer : Prop :=
  ∀ s : State, s.pins.rst = false →
    (∀ op, s.phase = .waitSnap op → s.pins.snapAck.delivered = none →
      snapReq s = true ∧ step s = .next (setInputs s.inputs.tail s)) ∧
    (∀ n, s.phase = .waitConn n → s.pins.connAck.delivered = none →
      connReq s = true ∧ step s = .next (setInputs s.inputs.tail s))

/-- R53: an offered response is held until the HOST takes it; then it is transferred once and `phase` is `IDLE`. The
phase that holds the response is the model's own (assumption 4). -/
def Obligations.ResponseIsHeldUntilTaken : Prop :=
  ∀ (s : State) (r : ResponseWord), s.pins.rst = false → s.phase = .respond r →
    rspOffered s = some r ∧ cmdReady s = false ∧
    (s.pins.rspReady = false → step s = .next (setInputs s.inputs.tail s)) ∧
    (s.pins.rspReady = true →
      step s = .next { s with phase := .idle, inputs := s.inputs.tail, trace := .response r :: s.trace })

/-- R53: while the phase is not `IDLE`, a command word on the command port changes no step. -/
def Obligations.CommandIsNotAcceptedWhileBusy : Prop :=
  ∀ (s : State) (p : Pins) (rest : List Pins) (c : Option CommandWord), s.phase ≠ .idle →
    step (setInputs ({ p with cmd := c } :: rest) s) = step (setInputs (p :: rest) s)

/-- R51, R53: no response is lost or doubled, in the model's own record of the ports (assumptions 3 and 4). A step
without reset adds to the responses taken and the commands outstanding, together, exactly the command it accepts. It
is a balance: it does not say that a waiting command is ever answered (R35). -/
def Obligations.ResponsesAndOutstandingCommandsBalance : Prop :=
  ∀ s t : State, s.pins.rst = false → step s = .next t →
    responsesTaken t + outstanding t = responsesTaken s + outstanding s + (if accepts s = true then 1 else 0)

/-- R52, R53, R54: when the transport answers, the waiting command commits and its response is offered: from
`WAIT_SNAP(op)` the response of R52 for each `op`, and from `WAIT_CONN(n)` the whole commit of INIT. -/
def Obligations.AnsweredWaitOffersResponse : Prop :=
  ∀ s : State, s.pins.rst = false →
    (∀ S, s.pins.snapAck.delivered = some S →
      (s.phase = .waitSnap .prime →
        ∃ t, step s = .next t ∧ t.phase = .respond (responseWord false true (S.setWidth 32))) ∧
      (s.phase = .waitSnap .hasChanged →
        ∃ t, step s = .next t ∧ t.phase = .respond (responseWord false (decide (S ≠ s.lastSnap)) 0)) ∧
      (s.phase = .waitSnap .update →
        ∃ t, step s = .next t ∧ t.phase = .respond (responseWord false (decide (S ≠ s.lastSnap)) 0)) ∧
      (s.phase = .waitSnap .updateWeighted →
        ∃ t, step s = .next t ∧ t.phase = .respond (responseWord false (decide (S ≠ s.lastSnap)) 0))) ∧
    (∀ n connected, s.phase = .waitConn n → s.pins.connAck.delivered = some connected →
      step s = .next { s with
        cc := BitVec.ofNat 4 (min n.toNat 8)
        phase := .respond (responseWord false connected 0)
        inputs := s.inputs.tail })

/-- R42, R53, R54: it makes no difference when the transport answers. A command that waits any number of steps and is
then answered leaves what it leaves when it is answered in the step that accepts it (assumption 6); what the HOST's
pins do meanwhile is without effect. -/
def Obligations.DelayedAnswerEqualsImmediateAnswer : Prop :=
  ∀ (s u : State) (w : CommandWord) (p₀ p₁ : Pins) (waits rest : List Pins),
    s.phase = .idle → s.inputs = p₀ :: (waits ++ p₁ :: rest) →
    p₀.rst = false → p₀.cmd = some w → p₁.rst = false → (∀ q ∈ waits, q.rst = false) →
    (∀ op S, decode w = .ok (snapInstr op) → p₀.snapAck.delivered = none →
      (∀ q ∈ waits, q.snapAck.delivered = none) → p₁.snapAck.delivered = some S →
      exec (snapInstr op) (setInputs [p₁] (acceptCommand w s)) = .next u →
      Host.Core.run Sys2Proof.core (waits.length + 2) s = .next (setInputs rest u)) ∧
    (∀ n b, decode w = .ok (.init n) → p₀.connAck.delivered = none →
      (∀ q ∈ waits, q.connAck.delivered = none) → p₁.connAck.delivered = some b →
      exec (.init n) (setInputs [p₁] (acceptCommand w s)) = .next u →
      Host.Core.run Sys2Proof.core (waits.length + 2) s = .next (setInputs rest u))

/-- R24, R51, R53, in the model's own record of the ports (assumptions 3 and 13): a run begins in any state in
`IDLE`, and every step keeps it a run: each response taken answers the last command accepted, once, and a command in
progress is the last one accepted. -/
def Obligations.EveryStepKeepsRun : Prop :=
  (∀ s : State, s.phase = .idle → InRun s.trace s) ∧
  (∀ (start : List PortEvent) (s t : State), InRun start s → step s = .next t → InRun start t)

/-- R109, in the form of assumption 13: in a run, a step from a state in which the HOST program has not ended leads to
one in which it has exactly when the HOST takes, in that step, the response to the last command of the program. A
command in progress, one waiting for the transport included, has not ended. -/
def Obligations.RunEndsWhenLastResponseIsTaken : Prop :=
  ∀ (start : List PortEvent) (program : List CommandWord) (s t : State), InRun start s →
    (s.phase ≠ .idle → ¬ RunEnded start program s) ∧
    (¬ RunEnded start program s → step s = .next t →
      (RunEnded start program t ↔
        s.pins.rst = false ∧ (∃ r, s.phase = .respond r) ∧ s.pins.rspReady = true ∧
          ∃ events, s.trace = events ++ start ∧ commandsAccepted events = program))

/-- R109 says when a run has ended and not what follows. The model's choice (assumptions 1 and 13): a run that has
ended stays ended in every step that accepts no further command, under reset too, and without a reset no register
changes any more. A state whose inputs are used up accepts no command, by assumption 1. -/
def Obligations.EndedRunStaysEnded : Prop :=
  ∀ (start : List PortEvent) (program : List CommandWord) (s t : State),
    RunEnded start program s → accepts s = false → step s = .next t →
    RunEnded start program t ∧ (s.pins.rst = false → t = setInputs s.inputs.tail s)

/-- The model's choice (assumption 1): an environment whose inputs are used up does nothing, and then a step changes
nothing. For a waiting command this is the stuck state of R35. -/
def Obligations.NothingHappensWithoutInputs : Prop :=
  ∀ s : State, s.inputs = [] → step s = .next s

/-! ### Setup commands -/

/-- R59: the word of INIT; its commit, which writes `cc` and nothing else; its wait for the probe. -/
def Obligations.InitWritesClampedCountAndAnswersProbe : Prop :=
  ∀ (n : Data) (s : State),
    (encode (.init n)).toNat = 0x010000000000 + n.toNat ∧
    (∀ w : CommandWord, w.extractLsb' 40 8 = 0x01#8 → w.extractLsb' 0 32 = n → decode w = .ok (.init n)) ∧
    (∀ connected, s.pins.connAck.delivered = some connected →
      exec (.init n) s = .next { s with
        cc := BitVec.ofNat 4 (min n.toNat 8)
        phase := .respond (responseWord false connected 0)
        trace := .connProbe :: s.trace }) ∧
    (s.pins.connAck.delivered = none →
      exec (.init n) s = .next { s with phase := .waitConn n, trace := .connProbe :: s.trace })

/-- R60: the word of RESET_ALL, and its effect: every channel and the cache are zeroed, nothing else is written, and
no request is made. -/
def Obligations.ResetAllZeroesChannelsAndCache : Prop :=
  (∀ w : CommandWord, w.extractLsb' 40 8 = 0x02#8 → decode w = .ok .resetAll) ∧
  encode .resetAll = 0x020000000000#48 ∧
  ∀ s : State, exec .resetAll s = .next { s with
    count := #v[0, 0, 0, 0, 0, 0, 0, 0]
    lastPos := #v[0, 0, 0, 0, 0, 0, 0, 0]
    lastSnap := 0x0000#16
    phase := .respond (responseWord false true 0) }

/-! ### Sampling commands -/

/-- R61: the word of PRIME; its effect on each channel and on the cache, and its answer; its wait. -/
def Obligations.PrimeLoadsCacheAndActivePositions : Prop :=
  (∀ w : CommandWord, w.extractLsb' 40 8 = 0x03#8 → decode w = .ok .prime) ∧
  encode .prime = 0x030000000000#48 ∧
  ∀ s : State,
    (∀ S, s.pins.snapAck.delivered = some S →
      ∃ t, exec .prime s = .next t ∧ t.lastSnap = S ∧
        (∀ i : Channel, t.lastPosAt i =
          if i.val < s.cc.toNat then S.extractLsb' (2 * i.val) 2 else s.lastPosAt i) ∧
        t.phase = .respond (responseWord false true (S.setWidth 32)) ∧
        t.count = s.count ∧ t.cc = s.cc ∧ t.inputs = s.inputs ∧ t.trace = .snapRead :: s.trace) ∧
    (s.pins.snapAck.delivered = none →
      exec .prime s = .next { s with phase := .waitSnap .prime, trace := .snapRead :: s.trace })

/-- R62: the word of HAS_CHANGED; its answer, with no register written; its wait. -/
def Obligations.HasChangedComparesAndWritesNothing : Prop :=
  (∀ w : CommandWord, w.extractLsb' 40 8 = 0x04#8 → decode w = .ok .hasChanged) ∧
  encode .hasChanged = 0x040000000000#48 ∧
  ∀ s : State,
    (∀ S, s.pins.snapAck.delivered = some S →
      exec .hasChanged s = .next { s with
        phase := .respond (responseWord false (decide (S ≠ s.lastSnap)) 0)
        trace := .snapRead :: s.trace }) ∧
    (s.pins.snapAck.delivered = none →
      exec .hasChanged s = .next { s with phase := .waitSnap .hasChanged, trace := .snapRead :: s.trace })

/-! ### Decode commands -/

/-- R63, R69, R71, R73: the word of UPDATE; the early exit, which writes nothing; a full decode, channel by channel,
with the transition codes of R66 written out; its wait. -/
def Obligations.UpdateDecodesActiveChannels : Prop :=
  (∀ w : CommandWord, w.extractLsb' 40 8 = 0x05#8 → decode w = .ok .update) ∧
  encode .update = 0x050000000000#48 ∧
  ∀ s : State,
    (s.pins.snapAck.delivered = some s.lastSnap →
      exec .update s = .next { s with
        phase := .respond (responseWord false false 0), trace := .snapRead :: s.trace }) ∧
    (∀ S, s.pins.snapAck.delivered = some S → S ≠ s.lastSnap →
      ∃ t, exec .update s = .next t ∧ t.lastSnap = S ∧
        (∀ i : Channel, i.val < s.cc.toNat →
          t.lastPosAt i = S.extractLsb' (2 * i.val) 2 ∧
          let code := 4 * (s.lastPosAt i).toNat + (S.extractLsb' (2 * i.val) 2).toNat
          t.countAt i =
            if code ∈ [0b0001, 0b0111, 0b1110, 0b1000] then s.countAt i + 1
            else if code ∈ [0b0010, 0b0100, 0b1101, 0b1011] then s.countAt i - 1
            else s.countAt i) ∧
        (∀ i : Channel, s.cc.toNat ≤ i.val →
          t.countAt i = s.countAt i ∧ t.lastPosAt i = s.lastPosAt i) ∧
        t.phase = .respond (responseWord false true 0) ∧
        t.cc = s.cc ∧ t.inputs = s.inputs ∧ t.trace = .snapRead :: s.trace) ∧
    (s.pins.snapAck.delivered = none →
      exec .update s = .next { s with phase := .waitSnap .update, trace := .snapRead :: s.trace })

/-- R63, R69, R71, R74: the same of UPDATE_WEIGHTED, with its own deltas: a skip adds 2 and a reverse step adds 3. -/
def Obligations.UpdateWeightedDecodesActiveChannels : Prop :=
  (∀ w : CommandWord, w.extractLsb' 40 8 = 0x06#8 → decode w = .ok .updateWeighted) ∧
  encode .updateWeighted = 0x060000000000#48 ∧
  ∀ s : State,
    (s.pins.snapAck.delivered = some s.lastSnap →
      exec .updateWeighted s = .next { s with
        phase := .respond (responseWord false false 0), trace := .snapRead :: s.trace }) ∧
    (∀ S, s.pins.snapAck.delivered = some S → S ≠ s.lastSnap →
      ∃ t, exec .updateWeighted s = .next t ∧ t.lastSnap = S ∧
        (∀ i : Channel, i.val < s.cc.toNat →
          t.lastPosAt i = S.extractLsb' (2 * i.val) 2 ∧
          let code := 4 * (s.lastPosAt i).toNat + (S.extractLsb' (2 * i.val) 2).toNat
          t.countAt i =
            if code ∈ [0b0001, 0b0111, 0b1110, 0b1000] then s.countAt i + 1
            else if code ∈ [0b0011, 0b0110, 0b1001, 0b1100] then s.countAt i + 2
            else if code ∈ [0b0010, 0b0100, 0b1101, 0b1011] then s.countAt i + 3
            else s.countAt i) ∧
        (∀ i : Channel, s.cc.toNat ≤ i.val →
          t.countAt i = s.countAt i ∧ t.lastPosAt i = s.lastPosAt i) ∧
        t.phase = .respond (responseWord false true 0) ∧
        t.cc = s.cc ∧ t.inputs = s.inputs ∧ t.trace = .snapRead :: s.trace) ∧
    (s.pins.snapAck.delivered = none →
      exec .updateWeighted s = .next { s with
        phase := .waitSnap .updateWeighted, trace := .snapRead :: s.trace })

/-- R37, R38: channel `i`'s field is bits 2i+1:2i of the snapshot. -/
def Obligations.FieldIsTwoSnapshotBits : Prop :=
  ∀ (S : Snapshot) (i : Channel),
    field S i = S.extractLsb' (2 * i.val) 2 ∧ (field S i).toNat = S.toNat / 4 ^ i.val % 4

/-- R32: the first byte received is bits 15:8 and holds channels 4 to 7; the second is bits 7:0 and holds channels 0
to 3. -/
def Obligations.SnapshotBytesArriveMsbFirst : Prop :=
  ∀ first second : BitVec 8,
    (snapshotOfBytes first second).extractLsb' 8 8 = first ∧
    (snapshotOfBytes first second).extractLsb' 0 8 = second ∧
    ∀ i : Channel, field (snapshotOfBytes first second) i =
      if i.val < 4 then second.extractLsb' (2 * i.val) 2 else first.extractLsb' (2 * (i.val - 4)) 2

/-- R64, R65: the sixteen rows of the transition table: previous and current position, code, class, `dU`, `dW`. -/
def Obligations.TransitionTableHasSixteenRows : Prop :=
  ∀ row ∈ ([(0, 0, 0b0000, .noChange, 0, 0), (0, 1, 0b0001, .forward, 1, 1),
      (0, 2, 0b0010, .reverse, -1, 3), (0, 3, 0b0011, .skip, 0, 2),
      (1, 0, 0b0100, .reverse, -1, 3), (1, 1, 0b0101, .noChange, 0, 0),
      (1, 2, 0b0110, .skip, 0, 2), (1, 3, 0b0111, .forward, 1, 1),
      (2, 0, 0b1000, .forward, 1, 1), (2, 1, 0b1001, .skip, 0, 2),
      (2, 2, 0b1010, .noChange, 0, 0), (2, 3, 0b1011, .reverse, -1, 3),
      (3, 0, 0b1100, .skip, 0, 2), (3, 1, 0b1101, .reverse, -1, 3),
      (3, 2, 0b1110, .forward, 1, 1), (3, 3, 0b1111, .noChange, 0, 0)]
      : List (Position × Position × BitVec 4 × StepClass × Int × Int)),
    transitionCode row.1 row.2.1 = row.2.2.1 ∧ classify row.2.2.1 = row.2.2.2.1 ∧
      deltaU row.2.2.2.1 = row.2.2.2.2.1 ∧ deltaW row.2.2.2.1 = row.2.2.2.2.2

/-- R66, R67, R68: with `k` the number of steps along the Gray sequence, mod 4, `dU` is 0, +1, 0, -1 and `dW` is
`k`. -/
def Obligations.DeltasAreGrayStepCounts : Prop :=
  ∀ prev cur : Position,
    deltaW (classify (transitionCode prev cur)) = grayStep prev cur ∧
    (grayStep prev cur, deltaU (classify (transitionCode prev cur)))
      ∈ ([(0, 0), (1, 1), (2, 0), (3, -1)] : List (Nat × Int))

/-- R12, R76: a delta is added modulo 2^32, and a count read as two's complement wraps at both ends. -/
def Obligations.CountsWrapInTwosComplement : Prop :=
  (∀ (c : Count) (d : Int), (addDelta c d).toInt = (c.toInt + d).bmod (2 ^ 32)) ∧
  addDelta 0x7FFFFFFF#32 1 = 0x80000000#32 ∧ addDelta 0x80000000#32 (-1) = 0x7FFFFFFF#32

/-- R70: evaluating all active lanes at once gives what the source's loop over the channels gives. -/
def Obligations.ParallelLanesEqualSequentialLoop : Prop :=
  ∀ (d : StepClass → Int) (S : Snapshot) (s : State), runLanes d S s = runLanesInOrder d S s

/-- R70: what UPDATE and UPDATE_WEIGHTED do to a channel depends on that channel's registers and field alone (given
that the command runs its lanes and that the channel is active or inactive in both states). -/
def Obligations.LaneReadsOnlyItsOwnChannel : Prop :=
  ∀ (i : Channel) (s s' t t' : State) (S S' : Snapshot),
    s.active i = s'.active i → s.countAt i = s'.countAt i → s.lastPosAt i = s'.lastPosAt i →
    field S i = field S' i → S ≠ s.lastSnap → S' ≠ s'.lastSnap →
    s.pins.snapAck.delivered = some S → s'.pins.snapAck.delivered = some S' →
    ((exec .update s = .next t ∧ exec .update s' = .next t') ∨
      (exec .updateWeighted s = .next t ∧ exec .updateWeighted s' = .next t')) →
    t.countAt i = t'.countAt i ∧ t.lastPosAt i = t'.lastPosAt i

/-- R68: UPDATE_WEIGHTED adds to each count the number of Gray steps, 0 to 3, from the channel's old position to its
new one: over every state, whether the command waits, exits early or decodes, and for active and inactive
channels. -/
def Obligations.WeightedCountFollowsGrayPosition : Prop :=
  ∀ (s t : State) (i : Channel), exec .updateWeighted s = .next t →
    t.countAt i = s.countAt i + BitVec.ofNat 32 (grayStep (s.lastPosAt i) (t.lastPosAt i))

/-- R101: the first UPDATE or UPDATE_WEIGHTED on zeroed positions and cache, without PRIME. -/
def Obligations.UnprimedStartCountsSpuriousSteps : Prop :=
  ∀ (s : State) (S : Snapshot) (i : Channel),
    s.lastSnap = 0x0000#16 → s.lastPosAt i = 0b00#2 → s.active i = true →
    s.pins.snapAck.delivered = some S →
    ∃ t t', exec .update s = .next t ∧ exec .updateWeighted s = .next t' ∧
      (field S i = 1#2 → t.countAt i = s.countAt i + 1 ∧ t'.countAt i = s.countAt i + 1) ∧
      (field S i = 2#2 → t.countAt i = s.countAt i - 1 ∧ t'.countAt i = s.countAt i + 3) ∧
      (field S i = 3#2 → t.countAt i = s.countAt i ∧ t'.countAt i = s.countAt i + 2) ∧
      (S = 0x0000#16 → t.phase = .respond (responseWord false false 0) ∧ t.countAt i = s.countAt i ∧
        t'.phase = .respond (responseWord false false 0) ∧ t'.countAt i = s.countAt i)

/-- R102: a HOST that issues UPDATE often enough counts exactly. If each snapshot finds channel `i` at most one Gray
step from where the one before it found it, then after any number of UPDATEs the count has moved by the distance the
encoder has turned, modulo 2^32. The UPDATEs follow each other in `exec`, each run on the state that still holds the
response of the one before, which rests on the model's choice of assumption 10 (`exec` does not look at the phase). -/
def Obligations.CountsFollowRotationWhenSampledOften : Prop :=
  ∀ (i : Channel) (snaps : List Snapshot) (s t : State) (p q : Int),
    s.active i = true → s.lastPosAt i = fieldAtRotation p → field s.lastSnap i = fieldAtRotation p →
    SampledOften i snaps p q → Polled snaps s t →
    t.countAt i = s.countAt i + BitVec.ofInt 32 (q - p)

/-! ### Access commands -/

/-- R77, R81: the word of GET_COUNT; its answer for every channel 0 to 7, active or not, and out of range. -/
def Obligations.GetCountReadsChannelOrZero : Prop :=
  ∀ (ch : ChannelIndex) (s : State),
    (encode (.getCount ch)).toNat = 0x070000000000 + ch.toNat * 2 ^ 32 ∧
    (∀ w : CommandWord, w.extractLsb' 40 8 = 0x07#8 → w.extractLsb' 32 8 = ch →
      decode w = .ok (.getCount ch)) ∧
    (∀ h : ch.toNat < 8,
      exec (.getCount ch) s = .next { s with
        phase := .respond (responseWord false true s.count[ch.toNat]) }) ∧
    (8 ≤ ch.toNat →
      exec (.getCount ch) s = .next { s with phase := .respond (responseWord false true 0) })

/-- R78, R81: the word of SET_COUNT; the one count it writes, of a channel active or not; out of range it writes
nothing and answers `ok = 0`. -/
def Obligations.SetCountWritesOneCount : Prop :=
  ∀ (ch : ChannelIndex) (value : Count) (s : State),
    (encode (.setCount ch value)).toNat = 0x080000000000 + ch.toNat * 2 ^ 32 + value.toNat ∧
    (∀ w : CommandWord, w.extractLsb' 40 8 = 0x08#8 → w.extractLsb' 32 8 = ch → w.extractLsb' 0 32 = value →
      decode w = .ok (.setCount ch value)) ∧
    (ch.toNat < 8 →
      ∃ t, exec (.setCount ch value) s = .next t ∧
        (∀ i : Channel, t.countAt i = if i.val = ch.toNat then value else s.countAt i) ∧
        t.phase = .respond (responseWord false true 0) ∧ t.lastPos = s.lastPos ∧ t.cc = s.cc ∧
        t.lastSnap = s.lastSnap ∧ t.inputs = s.inputs ∧ t.trace = s.trace) ∧
    (8 ≤ ch.toNat →
      exec (.setCount ch value) s = .next { s with phase := .respond (responseWord false false 0) })

/-- R79, R81: the word of GET_LAST_POSITION and its answer. -/
def Obligations.GetLastPositionReadsChannelOrZero : Prop :=
  ∀ (ch : ChannelIndex) (s : State),
    (encode (.getLastPosition ch)).toNat = 0x090000000000 + ch.toNat * 2 ^ 32 ∧
    (∀ w : CommandWord, w.extractLsb' 40 8 = 0x09#8 → w.extractLsb' 32 8 = ch →
      decode w = .ok (.getLastPosition ch)) ∧
    (∀ h : ch.toNat < 8,
      exec (.getLastPosition ch) s = .next { s with
        phase := .respond (responseWord false true (BitVec.ofNat 32 s.lastPos[ch.toNat].toNat)) }) ∧
    (8 ≤ ch.toNat →
      exec (.getLastPosition ch) s = .next { s with phase := .respond (responseWord false true 0) })

/-- R80: the word of GET_CONFIGURED_COUNT and its answer, `zext_32(cc)`, which is 0 in the reset state and 0 to 8 in
every state that meets the invariant. That `cc` stays 0 until an INIT is `ChannelCountIsZeroUntilInit`. -/
def Obligations.GetConfiguredCountReadsCount : Prop :=
  (∀ w : CommandWord, w.extractLsb' 40 8 = 0x0A#8 → decode w = .ok .getConfiguredCount) ∧
  encode .getConfiguredCount = 0x0A0000000000#48 ∧
  (∀ s : State, exec .getConfiguredCount s = .next { s with
    phase := .respond (responseWord false true (BitVec.ofNat 32 s.cc.toNat)) }) ∧
  State.reset.cc.toNat = 0 ∧ (∀ s : State, Inv s → (BitVec.ofNat 32 s.cc.toNat).toNat ≤ 8)

/-- R80, D10: after a reset, and in the reset state, `cc` is 0 until a command with INIT's opcode is accepted: whatever
else is accepted, answered or reset meanwhile, every step keeps that. What is accepted is read off the model's own
trace (assumption 3). -/
def Obligations.ChannelCountIsZeroUntilInit : Prop :=
  UnconfiguredUntilInit [] State.reset ∧
  (∀ s t : State, s.pins.rst = true → step s = .next t → UnconfiguredUntilInit t.trace t) ∧
  (∀ (start : List PortEvent) (s t : State),
    UnconfiguredUntilInit start s → step s = .next t → UnconfiguredUntilInit start t)

/-- R77, R78: a count that SET_COUNT writes is what GET_COUNT then reads, and every other index reads as before.
GET_COUNT is run by `exec` on the state that still holds SET_COUNT's response, which rests on the model's choice of
assumption 10 (`exec` does not look at the phase). -/
def Obligations.SetCountThenGetCountReadsBack : Prop :=
  ∀ (ch other : ChannelIndex) (value : Count) (s t u v : State),
    exec (.setCount ch value) s = .next t → exec (.getCount other) t = .next u →
    exec (.getCount other) s = .next v →
    u.phase = if other = ch ∧ ch.toNat < 8 then .respond (responseWord false true value) else v.phase

/-! ### Whole-machine rules -/

/-- R36: the transport requests of each command, exactly. A command that waits makes no request again, and a
reserved word makes none. -/
def Obligations.CommandsMakeExactlyTheirTransportRequests : Prop :=
  (∀ (i : Instr) (s t : State), exec i s = .next t →
    t.trace =
      (match i with
        | .init _ => [.connProbe]
        | .prime => [.snapRead]
        | .hasChanged => [.snapRead]
        | .update => [.snapRead]
        | .updateWeighted => [.snapRead]
        | .resetAll => []
        | .getCount _ => []
        | .setCount _ _ => []
        | .getLastPosition _ => []
        | .getConfiguredCount => []) ++ s.trace) ∧
  (∀ (s t : State), step s = .next t → s.pins.rst = false →
    (((∃ op, s.phase = .waitSnap op) ∨ (∃ n, s.phase = .waitConn n)) → t.trace = s.trace) ∧
    (∀ w e, s.phase = .idle → s.pins.cmd = some w → decode w = .error e → t.trace = .command w :: s.trace))

/-- R51, R52: no command answers with `err = 1`: none that `exec` runs to its response, and none that waited first.
For a step, from any state, offers a response word with `err = 1` only if it held that word already or a reserved
command word was accepted. -/
def Obligations.CommandsNeverAnswerErr : Prop :=
  (∀ (i : Instr) (s t : State) (r : ResponseWord),
    exec i s = .next t → t.phase = .respond r → responseErr r = false) ∧
  (∀ (s t : State) (r : ResponseWord), step s = .next t → t.phase = .respond r →
    ((∃ op, s.phase = .waitSnap op) ∨ (∃ n, s.phase = .waitConn n)) → responseErr r = false) ∧
  (∀ (s t : State) (r : ResponseWord), step s = .next t → t.phase = .respond r → responseErr r = true →
    s.phase = .respond r ∨ (s.phase = .idle ∧ ∃ w e, s.pins.cmd = some w ∧ decode w = .error e))

/-- R18, conflict C6: what can change a count. -/
def Obligations.OnlyCountWritersChangeCounts : Prop :=
  ∀ s t : State, step s = .next t → t.count ≠ s.count →
    s.pins.rst = true ∨
    (s.phase = .idle ∧ ∃ w, s.pins.cmd = some w ∧ (w.extractLsb' 40 8).toNat ∈ [0x02, 0x05, 0x06, 0x08]) ∨
    s.phase = .waitSnap .update ∨ s.phase = .waitSnap .updateWeighted

/-- R19, conflict C5: what can change a last position. -/
def Obligations.OnlyPositionWritersChangePositions : Prop :=
  ∀ s t : State, step s = .next t → t.lastPos ≠ s.lastPos →
    s.pins.rst = true ∨
    (s.phase = .idle ∧ ∃ w, s.pins.cmd = some w ∧ (w.extractLsb' 40 8).toNat ∈ [0x02, 0x03, 0x05, 0x06]) ∨
    s.phase = .waitSnap .prime ∨ s.phase = .waitSnap .update ∨ s.phase = .waitSnap .updateWeighted

/-- R21: what can change `cc`: INIT and reset. -/
def Obligations.OnlyInitChangesChannelCount : Prop :=
  ∀ s t : State, step s = .next t → t.cc ≠ s.cc →
    s.pins.rst = true ∨
    (s.phase = .idle ∧ ∃ w, s.pins.cmd = some w ∧ (w.extractLsb' 40 8).toNat = 0x01) ∨
    ∃ n, s.phase = .waitConn n

/-- R22, R44: what can change the snapshot cache. -/
def Obligations.OnlyCacheWritersChangeSnapshotCache : Prop :=
  ∀ s t : State, step s = .next t → t.lastSnap ≠ s.lastSnap →
    s.pins.rst = true ∨
    (s.phase = .idle ∧ ∃ w, s.pins.cmd = some w ∧ (w.extractLsb' 40 8).toNat ∈ [0x02, 0x03, 0x05, 0x06]) ∨
    s.phase = .waitSnap .prime ∨ s.phase = .waitSnap .update ∨ s.phase = .waitSnap .updateWeighted

/-- R20, R71: no command but RESET_ALL and SET_COUNT changes the registers of an inactive channel. -/
def Obligations.InactiveChannelsAreInert : Prop :=
  ∀ (s t : State) (i : Channel) (c : Instr), s.active i = false → exec c s = .next t →
    c ≠ .resetAll → (∀ ch v, c ≠ .setCount ch v) →
    t.countAt i = s.countAt i ∧ t.lastPosAt i = s.lastPosAt i

/-! ### Invariants -/

/-- R21, R51: the invariant holds at reset. -/
def Obligations.InvariantHoldsAtReset : Prop := Inv State.reset

/-- R21, R50, R51: every step from every state that meets the invariant keeps it: `cc` stays 0 to 8, and an offered
response with `err = 1` is the illegal-command response. -/
def Obligations.EveryStepKeepsInvariant : Prop :=
  ∀ s t : State, Inv s → step s = .next t → Inv t

/-- R23, R28: at reset the relation between positions and cache holds, and it holds for every channel, active or not
(none is active then). -/
def Obligations.TrackingHoldsAtReset : Prop :=
  (∀ i : Channel, State.reset.lastPosAt i = field State.reset.lastSnap i) ∧ Tracks State.reset

/-- R23, R103: every step keeps the relation between the active channels' positions and the cache, unless it raises
`cc`. -/
def Obligations.EveryStepKeepsTracking : Prop :=
  ∀ s t : State, Tracks s → step s = .next t → t.cc.toNat ≤ s.cc.toNat → Tracks t

/-- R23: PRIME, and an UPDATE or UPDATE_WEIGHTED that does not exit early, establish the relation from any state;
after RESET_ALL it holds for every channel, active or not. -/
def Obligations.SamplingEstablishesTracking : Prop :=
  (∀ (s t : State) (S : Snapshot), s.pins.snapAck.delivered = some S →
    (exec .prime s = .next t → Tracks t) ∧
    (S ≠ s.lastSnap → exec .update s = .next t → Tracks t) ∧
    (S ≠ s.lastSnap → exec .updateWeighted s = .next t → Tracks t)) ∧
  (∀ s t : State, exec .resetAll s = .next t → ∀ i : Channel, t.lastPosAt i = field t.lastSnap i)
end

