-- ==== Sys2Proof/Laws/State.lean ====
section
/-! SUPPORT. What each update of State does to each of its fields: one lemma per field per update, true by rfl, so
that no proof unfolds a record update. -/

namespace Sys2Proof.Machine

open Sys2Proof

/-! ### `tick` -/

@[simp] theorem tick_count (s : State) : (tick s).count = s.count := rfl
@[simp] theorem tick_lastPos (s : State) : (tick s).lastPos = s.lastPos := rfl
@[simp] theorem tick_cc (s : State) : (tick s).cc = s.cc := rfl
@[simp] theorem tick_lastSnap (s : State) : (tick s).lastSnap = s.lastSnap := rfl
@[simp] theorem tick_phase (s : State) : (tick s).phase = s.phase := rfl
@[simp] theorem tick_inputs (s : State) : (tick s).inputs = s.inputs.tail := rfl
@[simp] theorem tick_trace (s : State) : (tick s).trace = s.trace := rfl
@[simp] theorem tick_active (s : State) (j : Channel) : (tick s).active j = s.active j := rfl
@[simp] theorem tick_countAt (s : State) (j : Channel) : (tick s).countAt j = s.countAt j := rfl
@[simp] theorem tick_lastPosAt (s : State) (j : Channel) : (tick s).lastPosAt j = s.lastPosAt j := rfl

/-! ### `setInputs` -/

@[simp] theorem setInputs_count (l : List Pins) (s : State) : (setInputs l s).count = s.count := rfl
@[simp] theorem setInputs_lastPos (l : List Pins) (s : State) : (setInputs l s).lastPos = s.lastPos := rfl
@[simp] theorem setInputs_cc (l : List Pins) (s : State) : (setInputs l s).cc = s.cc := rfl
@[simp] theorem setInputs_lastSnap (l : List Pins) (s : State) : (setInputs l s).lastSnap = s.lastSnap := rfl
@[simp] theorem setInputs_phase (l : List Pins) (s : State) : (setInputs l s).phase = s.phase := rfl
@[simp] theorem setInputs_inputs (l : List Pins) (s : State) : (setInputs l s).inputs = l := rfl
@[simp] theorem setInputs_trace (l : List Pins) (s : State) : (setInputs l s).trace = s.trace := rfl
@[simp] theorem setInputs_active (l : List Pins) (s : State) (j : Channel) : (setInputs l s).active j = s.active j := rfl
@[simp] theorem setInputs_countAt (l : List Pins) (s : State) (j : Channel) : (setInputs l s).countAt j = s.countAt j := rfl
@[simp] theorem setInputs_lastPosAt (l : List Pins) (s : State) (j : Channel) : (setInputs l s).lastPosAt j = s.lastPosAt j := rfl
@[simp] theorem setInputs_pins_cons (p : Pins) (rest : List Pins) (s : State) :
    (setInputs (p :: rest) s).pins = p := rfl
@[simp] theorem setInputs_pins_nil (s : State) : (setInputs [] s).pins = Pins.quiet := rfl
@[simp] theorem setInputs_setInputs (l m : List Pins) (s : State) :
    setInputs l (setInputs m s) = setInputs l s := rfl
theorem tick_eq (s : State) : tick s = setInputs s.inputs.tail s := rfl

/-! ### `writeCount` -/

@[simp] theorem writeCount_count (i : Channel) (v : Count) (s : State) : (writeCount i v s).count = s.count.set i.val v := rfl
@[simp] theorem writeCount_lastPos (i : Channel) (v : Count) (s : State) : (writeCount i v s).lastPos = s.lastPos := rfl
@[simp] theorem writeCount_cc (i : Channel) (v : Count) (s : State) : (writeCount i v s).cc = s.cc := rfl
@[simp] theorem writeCount_lastSnap (i : Channel) (v : Count) (s : State) : (writeCount i v s).lastSnap = s.lastSnap := rfl
@[simp] theorem writeCount_phase (i : Channel) (v : Count) (s : State) : (writeCount i v s).phase = s.phase := rfl
@[simp] theorem writeCount_inputs (i : Channel) (v : Count) (s : State) : (writeCount i v s).inputs = s.inputs := rfl
@[simp] theorem writeCount_trace (i : Channel) (v : Count) (s : State) : (writeCount i v s).trace = s.trace := rfl
@[simp] theorem writeCount_pins (i : Channel) (v : Count) (s : State) : (writeCount i v s).pins = s.pins := rfl
@[simp] theorem writeCount_active (k : Channel) (v : Count) (s : State) (j : Channel) : (writeCount k v s).active j = s.active j := rfl
@[simp] theorem writeCount_lastPosAt (i : Channel) (v : Count) (s : State) (j : Channel) : (writeCount i v s).lastPosAt j = s.lastPosAt j := rfl

/-! ### `writeLastPos` -/

@[simp] theorem writeLastPos_count (i : Channel) (v : Position) (s : State) : (writeLastPos i v s).count = s.count := rfl
@[simp] theorem writeLastPos_lastPos (i : Channel) (v : Position) (s : State) : (writeLastPos i v s).lastPos = s.lastPos.set i.val v := rfl
@[simp] theorem writeLastPos_cc (i : Channel) (v : Position) (s : State) : (writeLastPos i v s).cc = s.cc := rfl
@[simp] theorem writeLastPos_lastSnap (i : Channel) (v : Position) (s : State) : (writeLastPos i v s).lastSnap = s.lastSnap := rfl
@[simp] theorem writeLastPos_phase (i : Channel) (v : Position) (s : State) : (writeLastPos i v s).phase = s.phase := rfl
@[simp] theorem writeLastPos_inputs (i : Channel) (v : Position) (s : State) : (writeLastPos i v s).inputs = s.inputs := rfl
@[simp] theorem writeLastPos_trace (i : Channel) (v : Position) (s : State) : (writeLastPos i v s).trace = s.trace := rfl
@[simp] theorem writeLastPos_pins (i : Channel) (v : Position) (s : State) : (writeLastPos i v s).pins = s.pins := rfl
@[simp] theorem writeLastPos_active (k : Channel) (v : Position) (s : State) (j : Channel) : (writeLastPos k v s).active j = s.active j := rfl
@[simp] theorem writeLastPos_countAt (i : Channel) (v : Position) (s : State) (j : Channel) : (writeLastPos i v s).countAt j = s.countAt j := rfl

/-! ### `writeCc` -/

@[simp] theorem writeCc_count (v : ChannelCount) (s : State) : (writeCc v s).count = s.count := rfl
@[simp] theorem writeCc_lastPos (v : ChannelCount) (s : State) : (writeCc v s).lastPos = s.lastPos := rfl
@[simp] theorem writeCc_cc (v : ChannelCount) (s : State) : (writeCc v s).cc = v := rfl
@[simp] theorem writeCc_lastSnap (v : ChannelCount) (s : State) : (writeCc v s).lastSnap = s.lastSnap := rfl
@[simp] theorem writeCc_phase (v : ChannelCount) (s : State) : (writeCc v s).phase = s.phase := rfl
@[simp] theorem writeCc_inputs (v : ChannelCount) (s : State) : (writeCc v s).inputs = s.inputs := rfl
@[simp] theorem writeCc_trace (v : ChannelCount) (s : State) : (writeCc v s).trace = s.trace := rfl
@[simp] theorem writeCc_pins (v : ChannelCount) (s : State) : (writeCc v s).pins = s.pins := rfl
@[simp] theorem writeCc_countAt (v : ChannelCount) (s : State) (j : Channel) : (writeCc v s).countAt j = s.countAt j := rfl
@[simp] theorem writeCc_lastPosAt (v : ChannelCount) (s : State) (j : Channel) : (writeCc v s).lastPosAt j = s.lastPosAt j := rfl

/-! ### `writeLastSnap` -/

@[simp] theorem writeLastSnap_count (S : Snapshot) (s : State) : (writeLastSnap S s).count = s.count := rfl
@[simp] theorem writeLastSnap_lastPos (S : Snapshot) (s : State) : (writeLastSnap S s).lastPos = s.lastPos := rfl
@[simp] theorem writeLastSnap_cc (S : Snapshot) (s : State) : (writeLastSnap S s).cc = s.cc := rfl
@[simp] theorem writeLastSnap_lastSnap (S : Snapshot) (s : State) : (writeLastSnap S s).lastSnap = S := rfl
@[simp] theorem writeLastSnap_phase (S : Snapshot) (s : State) : (writeLastSnap S s).phase = s.phase := rfl
@[simp] theorem writeLastSnap_inputs (S : Snapshot) (s : State) : (writeLastSnap S s).inputs = s.inputs := rfl
@[simp] theorem writeLastSnap_trace (S : Snapshot) (s : State) : (writeLastSnap S s).trace = s.trace := rfl
@[simp] theorem writeLastSnap_pins (S : Snapshot) (s : State) : (writeLastSnap S s).pins = s.pins := rfl
@[simp] theorem writeLastSnap_active (S : Snapshot) (s : State) (j : Channel) : (writeLastSnap S s).active j = s.active j := rfl
@[simp] theorem writeLastSnap_countAt (S : Snapshot) (s : State) (j : Channel) : (writeLastSnap S s).countAt j = s.countAt j := rfl
@[simp] theorem writeLastSnap_lastPosAt (S : Snapshot) (s : State) (j : Channel) : (writeLastSnap S s).lastPosAt j = s.lastPosAt j := rfl

/-! ### `setPhase` -/

@[simp] theorem setPhase_count (p : Phase) (s : State) : (setPhase p s).count = s.count := rfl
@[simp] theorem setPhase_lastPos (p : Phase) (s : State) : (setPhase p s).lastPos = s.lastPos := rfl
@[simp] theorem setPhase_cc (p : Phase) (s : State) : (setPhase p s).cc = s.cc := rfl
@[simp] theorem setPhase_lastSnap (p : Phase) (s : State) : (setPhase p s).lastSnap = s.lastSnap := rfl
@[simp] theorem setPhase_phase (p : Phase) (s : State) : (setPhase p s).phase = p := rfl
@[simp] theorem setPhase_inputs (p : Phase) (s : State) : (setPhase p s).inputs = s.inputs := rfl
@[simp] theorem setPhase_trace (p : Phase) (s : State) : (setPhase p s).trace = s.trace := rfl
@[simp] theorem setPhase_pins (p : Phase) (s : State) : (setPhase p s).pins = s.pins := rfl
@[simp] theorem setPhase_active (p : Phase) (s : State) (j : Channel) : (setPhase p s).active j = s.active j := rfl
@[simp] theorem setPhase_countAt (p : Phase) (s : State) (j : Channel) : (setPhase p s).countAt j = s.countAt j := rfl
@[simp] theorem setPhase_lastPosAt (p : Phase) (s : State) (j : Channel) : (setPhase p s).lastPosAt j = s.lastPosAt j := rfl

/-! ### `writeCounts` -/

@[simp] theorem writeCounts_count (f : Channel → Count) (s : State) : (writeCounts f s).count = Vector.ofFn f := rfl
@[simp] theorem writeCounts_lastPos (f : Channel → Count) (s : State) : (writeCounts f s).lastPos = s.lastPos := rfl
@[simp] theorem writeCounts_cc (f : Channel → Count) (s : State) : (writeCounts f s).cc = s.cc := rfl
@[simp] theorem writeCounts_lastSnap (f : Channel → Count) (s : State) : (writeCounts f s).lastSnap = s.lastSnap := rfl
@[simp] theorem writeCounts_phase (f : Channel → Count) (s : State) : (writeCounts f s).phase = s.phase := rfl
@[simp] theorem writeCounts_inputs (f : Channel → Count) (s : State) : (writeCounts f s).inputs = s.inputs := rfl
@[simp] theorem writeCounts_trace (f : Channel → Count) (s : State) : (writeCounts f s).trace = s.trace := rfl
@[simp] theorem writeCounts_pins (f : Channel → Count) (s : State) : (writeCounts f s).pins = s.pins := rfl
@[simp] theorem writeCounts_active (f : Channel → Count) (s : State) (j : Channel) : (writeCounts f s).active j = s.active j := rfl
@[simp] theorem writeCounts_lastPosAt (f : Channel → Count) (s : State) (j : Channel) : (writeCounts f s).lastPosAt j = s.lastPosAt j := rfl

/-! ### `writeLastPositions` -/

@[simp] theorem writeLastPositions_count (f : Channel → Position) (s : State) : (writeLastPositions f s).count = s.count := rfl
@[simp] theorem writeLastPositions_lastPos (f : Channel → Position) (s : State) : (writeLastPositions f s).lastPos = Vector.ofFn f := rfl
@[simp] theorem writeLastPositions_cc (f : Channel → Position) (s : State) : (writeLastPositions f s).cc = s.cc := rfl
@[simp] theorem writeLastPositions_lastSnap (f : Channel → Position) (s : State) : (writeLastPositions f s).lastSnap = s.lastSnap := rfl
@[simp] theorem writeLastPositions_phase (f : Channel → Position) (s : State) : (writeLastPositions f s).phase = s.phase := rfl
@[simp] theorem writeLastPositions_inputs (f : Channel → Position) (s : State) : (writeLastPositions f s).inputs = s.inputs := rfl
@[simp] theorem writeLastPositions_trace (f : Channel → Position) (s : State) : (writeLastPositions f s).trace = s.trace := rfl
@[simp] theorem writeLastPositions_pins (f : Channel → Position) (s : State) : (writeLastPositions f s).pins = s.pins := rfl
@[simp] theorem writeLastPositions_active (f : Channel → Position) (s : State) (j : Channel) : (writeLastPositions f s).active j = s.active j := rfl
@[simp] theorem writeLastPositions_countAt (f : Channel → Position) (s : State) (j : Channel) : (writeLastPositions f s).countAt j = s.countAt j := rfl

/-! ### `record` -/

@[simp] theorem record_count (e : PortEvent) (s : State) : (record e s).count = s.count := rfl
@[simp] theorem record_lastPos (e : PortEvent) (s : State) : (record e s).lastPos = s.lastPos := rfl
@[simp] theorem record_cc (e : PortEvent) (s : State) : (record e s).cc = s.cc := rfl
@[simp] theorem record_lastSnap (e : PortEvent) (s : State) : (record e s).lastSnap = s.lastSnap := rfl
@[simp] theorem record_phase (e : PortEvent) (s : State) : (record e s).phase = s.phase := rfl
@[simp] theorem record_inputs (e : PortEvent) (s : State) : (record e s).inputs = s.inputs := rfl
@[simp] theorem record_trace (e : PortEvent) (s : State) : (record e s).trace = e :: s.trace := rfl
@[simp] theorem record_pins (e : PortEvent) (s : State) : (record e s).pins = s.pins := rfl
@[simp] theorem record_active (e : PortEvent) (s : State) (j : Channel) : (record e s).active j = s.active j := rfl
@[simp] theorem record_countAt (e : PortEvent) (s : State) (j : Channel) : (record e s).countAt j = s.countAt j := rfl
@[simp] theorem record_lastPosAt (e : PortEvent) (s : State) (j : Channel) : (record e s).lastPosAt j = s.lastPosAt j := rfl

/-! ### `respond` -/

@[simp] theorem respond_count (err ok : Bool) (data : Data) (s : State) : (respond err ok data s).count = s.count := rfl
@[simp] theorem respond_lastPos (err ok : Bool) (data : Data) (s : State) : (respond err ok data s).lastPos = s.lastPos := rfl
@[simp] theorem respond_cc (err ok : Bool) (data : Data) (s : State) : (respond err ok data s).cc = s.cc := rfl
@[simp] theorem respond_lastSnap (err ok : Bool) (data : Data) (s : State) : (respond err ok data s).lastSnap = s.lastSnap := rfl
@[simp] theorem respond_phase (err ok : Bool) (data : Data) (s : State) : (respond err ok data s).phase = .respond (responseWord err ok data) := rfl
@[simp] theorem respond_inputs (err ok : Bool) (data : Data) (s : State) : (respond err ok data s).inputs = s.inputs := rfl
@[simp] theorem respond_trace (err ok : Bool) (data : Data) (s : State) : (respond err ok data s).trace = s.trace := rfl
@[simp] theorem respond_pins (err ok : Bool) (data : Data) (s : State) : (respond err ok data s).pins = s.pins := rfl
@[simp] theorem respond_active (err ok : Bool) (data : Data) (s : State) (j : Channel) : (respond err ok data s).active j = s.active j := rfl
@[simp] theorem respond_countAt (err ok : Bool) (data : Data) (s : State) (j : Channel) : (respond err ok data s).countAt j = s.countAt j := rfl
@[simp] theorem respond_lastPosAt (err ok : Bool) (data : Data) (s : State) (j : Channel) : (respond err ok data s).lastPosAt j = s.lastPosAt j := rfl

/-! ### `respondIllegal` -/

@[simp] theorem respondIllegal_count (s : State) : (respondIllegal s).count = s.count := rfl
@[simp] theorem respondIllegal_lastPos (s : State) : (respondIllegal s).lastPos = s.lastPos := rfl
@[simp] theorem respondIllegal_cc (s : State) : (respondIllegal s).cc = s.cc := rfl
@[simp] theorem respondIllegal_lastSnap (s : State) : (respondIllegal s).lastSnap = s.lastSnap := rfl
@[simp] theorem respondIllegal_phase (s : State) : (respondIllegal s).phase = .respond illegalResponse := rfl
@[simp] theorem respondIllegal_inputs (s : State) : (respondIllegal s).inputs = s.inputs := rfl
@[simp] theorem respondIllegal_trace (s : State) : (respondIllegal s).trace = s.trace := rfl
@[simp] theorem respondIllegal_pins (s : State) : (respondIllegal s).pins = s.pins := rfl
@[simp] theorem respondIllegal_active (s : State) (j : Channel) : (respondIllegal s).active j = s.active j := rfl
@[simp] theorem respondIllegal_countAt (s : State) (j : Channel) : (respondIllegal s).countAt j = s.countAt j := rfl
@[simp] theorem respondIllegal_lastPosAt (s : State) (j : Channel) : (respondIllegal s).lastPosAt j = s.lastPosAt j := rfl

/-! ### `resetEvent` -/

@[simp] theorem resetEvent_count (s : State) : (resetEvent s).count = State.reset.count := rfl
@[simp] theorem resetEvent_lastPos (s : State) : (resetEvent s).lastPos = State.reset.lastPos := rfl
@[simp] theorem resetEvent_cc (s : State) : (resetEvent s).cc = State.reset.cc := rfl
@[simp] theorem resetEvent_lastSnap (s : State) : (resetEvent s).lastSnap = State.reset.lastSnap := rfl
@[simp] theorem resetEvent_phase (s : State) : (resetEvent s).phase = .idle := rfl
@[simp] theorem resetEvent_inputs (s : State) : (resetEvent s).inputs = s.inputs := rfl
@[simp] theorem resetEvent_trace (s : State) : (resetEvent s).trace = s.trace := rfl
@[simp] theorem resetEvent_pins (s : State) : (resetEvent s).pins = s.pins := rfl

/-! ### Active channels -/

/-- Channel `i` is active when `i < cc` (R20). -/
theorem active_iff {s : State} {i : Channel} : s.active i = true ↔ i.val < s.cc.toNat := by
  simp [State.active]

/-- Channel `i` is inactive when `cc <= i` (R20). -/
theorem inactive_iff {s : State} {i : Channel} : s.active i = false ↔ s.cc.toNat ≤ i.val := by
  simp [State.active]

/-- Which channels are active depends on `cc` alone. -/
theorem active_congr {s t : State} (h : s.cc = t.cc) (i : Channel) : s.active i = t.active i := by
  simp [State.active, h]

/-! ### Reading a register after a write -/

@[simp] theorem writeCounts_countAt (f : Channel → Count) (s : State) (j : Channel) :
    (writeCounts f s).countAt j = f j := by
  simp [State.countAt]

@[simp] theorem writeLastPositions_lastPosAt (f : Channel → Position) (s : State) (j : Channel) :
    (writeLastPositions f s).lastPosAt j = f j := by
  simp [State.lastPosAt]

theorem writeCount_countAt (i : Channel) (v : Count) (s : State) (j : Channel) :
    (writeCount i v s).countAt j = if j = i then v else s.countAt j := by
  simp only [State.countAt, writeCount_count, Vector.getElem_set, Fin.ext_iff, eq_comm]

theorem writeLastPos_lastPosAt (i : Channel) (v : Position) (s : State) (j : Channel) :
    (writeLastPos i v s).lastPosAt j = if j = i then v else s.lastPosAt j := by
  simp only [State.lastPosAt, writeLastPos_lastPos, Vector.getElem_set, Fin.ext_iff, eq_comm]

@[simp] theorem resetEvent_countAt (s : State) (j : Channel) : (resetEvent s).countAt j = 0 := by
  simp [State.countAt, State.reset]

@[simp] theorem resetEvent_lastPosAt (s : State) (j : Channel) : (resetEvent s).lastPosAt j = 0 := by
  simp [State.lastPosAt, State.reset]

/-! ### The pins of a state -/

theorem pins_of_inputs_nil {s : State} (h : s.inputs = []) : s.pins = Pins.quiet := by
  simp [State.pins, h]

theorem pins_of_inputs_cons {s : State} {p : Pins} {rest : List Pins} (h : s.inputs = p :: rest) :
    s.pins = p := by
  simp [State.pins, h]

/-! ### No update but `setInputs` and `tick` touches the inputs -/

theorem writeCount_setInputs (l : List Pins) (i : Channel) (v : Count) (s : State) :
    writeCount i v (setInputs l s) = setInputs l (writeCount i v s) := rfl
theorem writeLastPos_setInputs (l : List Pins) (i : Channel) (v : Position) (s : State) :
    writeLastPos i v (setInputs l s) = setInputs l (writeLastPos i v s) := rfl
theorem writeCc_setInputs (l : List Pins) (v : ChannelCount) (s : State) :
    writeCc v (setInputs l s) = setInputs l (writeCc v s) := rfl
theorem writeLastSnap_setInputs (l : List Pins) (S : Snapshot) (s : State) :
    writeLastSnap S (setInputs l s) = setInputs l (writeLastSnap S s) := rfl
theorem setPhase_setInputs (l : List Pins) (p : Phase) (s : State) :
    setPhase p (setInputs l s) = setInputs l (setPhase p s) := rfl
theorem writeCounts_setInputs (l : List Pins) (f : Channel → Count) (s : State) :
    writeCounts f (setInputs l s) = setInputs l (writeCounts f s) := rfl
theorem writeLastPositions_setInputs (l : List Pins) (f : Channel → Position) (s : State) :
    writeLastPositions f (setInputs l s) = setInputs l (writeLastPositions f s) := rfl
theorem record_setInputs (l : List Pins) (e : PortEvent) (s : State) :
    record e (setInputs l s) = setInputs l (record e s) := rfl
theorem respond_setInputs (l : List Pins) (err ok : Bool) (data : Data) (s : State) :
    respond err ok data (setInputs l s) = setInputs l (respond err ok data s) := rfl
theorem respondIllegal_setInputs (l : List Pins) (s : State) :
    respondIllegal (setInputs l s) = setInputs l (respondIllegal s) := rfl
theorem resetEvent_setInputs (l : List Pins) (s : State) :
    resetEvent (setInputs l s) = setInputs l (resetEvent s) := rfl

/-- Two states are equal when every field is, the channel registers channel by channel. -/
theorem State.ext_channels {s t : State} (hc : ∀ i, s.countAt i = t.countAt i)
    (hp : ∀ i, s.lastPosAt i = t.lastPosAt i) (hcc : s.cc = t.cc) (hl : s.lastSnap = t.lastSnap)
    (hph : s.phase = t.phase) (hi : s.inputs = t.inputs) (ht : s.trace = t.trace) : s = t := by
  have h1 : s.count = t.count := Vector.ext fun i h => hc ⟨i, h⟩
  have h2 : s.lastPos = t.lastPos := Vector.ext fun i h => hp ⟨i, h⟩
  cases s
  cases t
  simp_all

end Sys2Proof.Machine
end

