-- ==== Sys2Proof/Laws/Words.lean ====
section
/-! SUPPORT. The small lemmas of the command word, the response word and the snapshot's fields. -/

namespace Sys2Proof

@[simp] theorem commandOp_packFields (op : Opcode) (ch : ChannelIndex) (data : Data) :
    commandOp (packFields op ch data) = op := by
  ext i hi
  simp [commandOp, packFields]
  grind

@[simp] theorem commandCh_packFields (op : Opcode) (ch : ChannelIndex) (data : Data) :
    commandCh (packFields op ch data) = ch := by
  ext i hi
  simp [commandCh, packFields]
  grind

@[simp] theorem commandData_packFields (op : Opcode) (ch : ChannelIndex) (data : Data) :
    commandData (packFields op ch data) = data := by
  ext i hi
  simp [commandData, packFields]
  grind

/-- A word is its three fields, each of which stands once. -/
theorem packFields_fields (w : CommandWord) :
    packFields (commandOp w) (commandCh w) (commandData w) = w := by
  ext i hi
  simp [commandOp, commandCh, commandData, packFields]
  grind

theorem packFields_toNat (op : Opcode) (ch : ChannelIndex) (data : Data) :
    (packFields op ch data).toNat = op.toNat * 2 ^ 40 + ch.toNat * 2 ^ 32 + data.toNat := by
  have h1 := ch.isLt
  have h2 := data.isLt
  rw [packFields, BitVec.toNat_cast, BitVec.toNat_append, BitVec.toNat_append,
    ← Nat.shiftLeft_add_eq_or_of_lt h2, ← Nat.shiftLeft_add_eq_or_of_lt h1]
  simp only [Nat.shiftLeft_eq]
  ring

@[simp] theorem commandOp_encode (i : Instr) : commandOp (encode i) = opcode i := by
  simp [encode]

@[simp] theorem commandCh_encode (i : Instr) : commandCh (encode i) = chField i := by
  simp [encode]

@[simp] theorem commandData_encode (i : Instr) : commandData (encode i) = dataField i := by
  simp [encode]

namespace Machine

@[simp] theorem responseErr_responseWord (err ok : Bool) (data : Data) :
    responseErr (responseWord err ok data) = err := by
  simp [responseErr, responseWord]
  grind

@[simp] theorem responseOk_responseWord (err ok : Bool) (data : Data) :
    responseOk (responseWord err ok data) = ok := by
  simp [responseOk, responseWord]
  grind

@[simp] theorem responseData_responseWord (err ok : Bool) (data : Data) :
    responseData (responseWord err ok data) = data := by
  ext i hi
  simp [responseData, responseWord]
  grind

@[simp] theorem snapChanged_eq_true {S T : Snapshot} : snapChanged S T = true ↔ S ≠ T := by
  simp [snapChanged]

@[simp] theorem snapChanged_eq_false {S T : Snapshot} : snapChanged S T = false ↔ S = T := by
  simp [snapChanged]

@[simp] theorem field_zero (i : Channel) : field 0 i = 0 := by
  simp [field]

/-- `zext_32` keeps the number (R12). -/
theorem zext32_eq_ofNat {k : Nat} (v : BitVec k) : zext32 v = BitVec.ofNat 32 v.toNat :=
  BitVec.eq_of_toNat_eq (by simp [zext32])

theorem channelIndex_eq (ch : ChannelIndex) : channelIndex ch = ch.toNat := by
  have := ch.isLt
  simp [channelIndex, zext32]
  omega

/-- An index in range names the channel of that number (R81). -/
theorem channelOf_of_lt {ch : ChannelIndex} (h : ch.toNat < 8) : channelOf ch = some ⟨ch.toNat, h⟩ := by
  simp [channelOf, channelIndex_eq, h]

/-- An index out of range names no channel (R81). -/
theorem channelOf_of_ge {ch : ChannelIndex} (h : 8 ≤ ch.toNat) : channelOf ch = none := by
  simp [channelOf, channelIndex_eq]
  omega

/-- The index of a channel names it. -/
theorem channelOf_channel (i : Channel) : channelOf (BitVec.ofNat 8 i.val) = some i := by
  revert i
  decide

theorem clampCount_toNat (n : Data) : (clampCount n).toNat = min n.toNat 8 := by
  simp only [clampCount, BitVec.toNat_ofNat]
  rw [Nat.mod_eq_of_lt]
  exact lt_of_le_of_lt (min_le_right _ _) (by decide)

end Machine
end Sys2Proof
end

