-- ==== Sys2Proof/Laws/Ops.lean ====
section
/-! SUPPORT. One lemma per shared operation that says once everything the operation can do, and the frame of each
command's commit. -/

namespace Sys2Proof.Machine

open Sys2Proof

/-! ### Inputs -/

@[simp] theorem delivered_absent {α : Type} : (Answer.absent : Answer α).delivered = none := rfl
@[simp] theorem delivered_fresh {α : Type} (v : α) : (Answer.fresh v).delivered = some v := rfl
@[simp] theorem delivered_late {α : Type} (v : α) : (Answer.late v).delivered = none := rfl
@[simp] theorem quiet_rst : Pins.quiet.rst = false := rfl
@[simp] theorem quiet_cmd : Pins.quiet.cmd = none := rfl
@[simp] theorem quiet_rspReady : Pins.quiet.rspReady = false := rfl
@[simp] theorem quiet_snapAck : Pins.quiet.snapAck = .absent := rfl
@[simp] theorem quiet_connAck : Pins.quiet.connAck = .absent := rfl

/-! ### Transport requests -/

theorem snapRead_of_delivered {op : SnapOp} {commit : Snapshot → State → State} {s : State} {S : Snapshot}
    (h : s.pins.snapAck.delivered = some S) :
    snapRead op commit s = commit S (record .snapRead s) := by
  simp [snapRead, h]

theorem snapRead_of_undelivered {op : SnapOp} {commit : Snapshot → State → State} {s : State}
    (h : s.pins.snapAck.delivered = none) :
    snapRead op commit s = setPhase (.waitSnap op) (record .snapRead s) := by
  simp [snapRead, h]

theorem probeConnected_of_delivered {n : Data} {commit : Bool → State → State} {s : State} {b : Bool}
    (h : s.pins.connAck.delivered = some b) :
    probeConnected n commit s = commit b (record .connProbe s) := by
  simp [probeConnected, h]

theorem probeConnected_of_undelivered {n : Data} {commit : Bool → State → State} {s : State}
    (h : s.pins.connAck.delivered = none) :
    probeConnected n commit s = setPhase (.waitConn n) (record .connProbe s) := by
  simp [probeConnected, h]

theorem waitForSnap_of_delivered {op : SnapOp} {s : State} {S : Snapshot}
    (h : s.pins.snapAck.delivered = some S) : waitForSnap op s = snapCommit op S s := by
  simp [waitForSnap, h]

theorem waitForSnap_of_undelivered {op : SnapOp} {s : State} (h : s.pins.snapAck.delivered = none) :
    waitForSnap op s = s := by
  simp [waitForSnap, h]

theorem waitForConn_of_delivered {n : Data} {s : State} {b : Bool}
    (h : s.pins.connAck.delivered = some b) : waitForConn n s = initCommit n b s := by
  simp [waitForConn, h]

theorem waitForConn_of_undelivered {n : Data} {s : State} (h : s.pins.connAck.delivered = none) :
    waitForConn n s = s := by
  simp [waitForConn, h]

/-! ### Lanes -/

theorem runLanes_countAt (d : StepClass → Int) (S : Snapshot) (s : State) (i : Channel) :
    (runLanes d S s).countAt i =
      if s.active i then laneCount d (s.countAt i) (s.lastPosAt i) (field S i) else s.countAt i := by
  simp [runLanes]

theorem runLanes_lastPosAt (d : StepClass → Int) (S : Snapshot) (s : State) (i : Channel) :
    (runLanes d S s).lastPosAt i = if s.active i then field S i else s.lastPosAt i := by
  simp [runLanes]

@[simp] theorem runLanes_cc (d : StepClass → Int) (S : Snapshot) (s : State) :
    (runLanes d S s).cc = s.cc := rfl
@[simp] theorem runLanes_active (d : StepClass → Int) (S : Snapshot) (s : State) (j : Channel) :
    (runLanes d S s).active j = s.active j := rfl
@[simp] theorem runLanes_lastSnap (d : StepClass → Int) (S : Snapshot) (s : State) :
    (runLanes d S s).lastSnap = s.lastSnap := rfl
@[simp] theorem runLanes_phase (d : StepClass → Int) (S : Snapshot) (s : State) :
    (runLanes d S s).phase = s.phase := rfl
@[simp] theorem runLanes_inputs (d : StepClass → Int) (S : Snapshot) (s : State) :
    (runLanes d S s).inputs = s.inputs := rfl
@[simp] theorem runLanes_trace (d : StepClass → Int) (S : Snapshot) (s : State) :
    (runLanes d S s).trace = s.trace := rfl

/-! ### Commits -/

theorem decodeCommit_of_eq (d : StepClass → Int) {S : Snapshot} {s : State} (h : S = s.lastSnap) :
    decodeCommit d S s = respond false false 0 s := by
  simp [decodeCommit, snapChanged, h]

theorem decodeCommit_of_ne (d : StepClass → Int) {S : Snapshot} {s : State} (h : S ≠ s.lastSnap) :
    decodeCommit d S s = respond false true 0 (runLanes d S (writeLastSnap S s)) := by
  simp [decodeCommit, snapChanged, h]

/-- A commit that answers a snapshot writes neither `cc` nor the ports, and ends in a response with `err = 0`. -/
theorem snapCommit_frame (op : SnapOp) (S : Snapshot) (s : State) :
    (snapCommit op S s).cc = s.cc ∧ (snapCommit op S s).inputs = s.inputs ∧
      (snapCommit op S s).trace = s.trace ∧
      ∃ ok data, (snapCommit op S s).phase = .respond (responseWord false ok data) := by
  cases op with
  | prime => exact ⟨rfl, rfl, rfl, _, _, rfl⟩
  | hasChanged => exact ⟨rfl, rfl, rfl, _, _, rfl⟩
  | update =>
    by_cases h : S = s.lastSnap
    · simp only [snapCommit, updateCommit, decodeCommit_of_eq _ h]
      exact ⟨rfl, rfl, rfl, _, _, rfl⟩
    · simp only [snapCommit, updateCommit, decodeCommit_of_ne _ h]
      exact ⟨rfl, rfl, rfl, _, _, rfl⟩
  | updateWeighted =>
    by_cases h : S = s.lastSnap
    · simp only [snapCommit, updateWeightedCommit, decodeCommit_of_eq _ h]
      exact ⟨rfl, rfl, rfl, _, _, rfl⟩
    · simp only [snapCommit, updateWeightedCommit, decodeCommit_of_ne _ h]
      exact ⟨rfl, rfl, rfl, _, _, rfl⟩

theorem decodeCommit_setInputs (d : StepClass → Int) (S : Snapshot) (l : List Pins) (s : State) :
    decodeCommit d S (setInputs l s) = setInputs l (decodeCommit d S s) := by
  by_cases h : S = s.lastSnap
  · rw [decodeCommit_of_eq d h, decodeCommit_of_eq d (s := setInputs l s) h]
    rfl
  · rw [decodeCommit_of_ne d h, decodeCommit_of_ne d (s := setInputs l s) h]
    rfl

/-- A commit neither reads nor writes the inputs. -/
theorem snapCommit_setInputs (op : SnapOp) (S : Snapshot) (l : List Pins) (s : State) :
    snapCommit op S (setInputs l s) = setInputs l (snapCommit op S s) := by
  cases op with
  | prime => rfl
  | hasChanged => rfl
  | update => exact decodeCommit_setInputs deltaU S l s
  | updateWeighted => exact decodeCommit_setInputs deltaW S l s

theorem decodeCommit_setPhase (d : StepClass → Int) (S : Snapshot) (p : Phase) (s : State) :
    decodeCommit d S (setPhase p s) = decodeCommit d S s := by
  by_cases h : S = s.lastSnap
  · rw [decodeCommit_of_eq d h, decodeCommit_of_eq d (s := setPhase p s) h]
    rfl
  · rw [decodeCommit_of_ne d h, decodeCommit_of_ne d (s := setPhase p s) h]
    rfl

/-- A commit does not depend on the phase in which the answer came. -/
theorem snapCommit_setPhase (op : SnapOp) (S : Snapshot) (p : Phase) (s : State) :
    snapCommit op S (setPhase p s) = snapCommit op S s := by
  cases op with
  | prime => rfl
  | hasChanged => rfl
  | update => exact decodeCommit_setPhase deltaU S p s
  | updateWeighted => exact decodeCommit_setPhase deltaW S p s

/-- INIT's commit does not depend on the phase in which the answer came. -/
theorem initCommit_setPhase (n : Data) (b : Bool) (p : Phase) (s : State) :
    initCommit n b (setPhase p s) = initCommit n b s := rfl

/-- INIT's commit neither reads nor writes the inputs. -/
theorem initCommit_setInputs (n : Data) (b : Bool) (l : List Pins) (s : State) :
    initCommit n b (setInputs l s) = setInputs l (initCommit n b s) := rfl

/-! ### Commands -/

/-- A command that reads a snapshot is one request and its commit. -/
theorem exec_snapInstr (op : SnapOp) (s : State) :
    exec (snapInstr op) s = .next (snapRead op (snapCommit op) s) := by
  cases op <;> rfl

/-- UPDATE on a snapshot that differs from the cache runs its lanes. -/
theorem exec_update_of_ne {s : State} {S : Snapshot} (h : s.pins.snapAck.delivered = some S)
    (hne : S ≠ s.lastSnap) :
    exec .update s
      = .next (respond false true 0 (runLanes deltaU S (writeLastSnap S (record .snapRead s)))) := by
  rw [exec, execUpdate, snapRead_of_delivered h, updateCommit,
    decodeCommit_of_ne (s := record .snapRead s) deltaU hne]

/-- UPDATE on a snapshot that equals the cache exits early. -/
theorem exec_update_of_eq {s : State} (h : s.pins.snapAck.delivered = some s.lastSnap) :
    exec .update s = .next (respond false false 0 (record .snapRead s)) := by
  rw [exec, execUpdate, snapRead_of_delivered h, updateCommit,
    decodeCommit_of_eq (S := s.lastSnap) (s := record .snapRead s) deltaU rfl]

/-- UPDATE_WEIGHTED on a snapshot that differs from the cache runs its lanes. -/
theorem exec_updateWeighted_of_ne {s : State} {S : Snapshot} (h : s.pins.snapAck.delivered = some S)
    (hne : S ≠ s.lastSnap) :
    exec .updateWeighted s
      = .next (respond false true 0 (runLanes deltaW S (writeLastSnap S (record .snapRead s)))) := by
  rw [exec, execUpdateWeighted, snapRead_of_delivered h, updateWeightedCommit,
    decodeCommit_of_ne (s := record .snapRead s) deltaW hne]

/-- UPDATE_WEIGHTED on a snapshot that equals the cache exits early. -/
theorem exec_updateWeighted_of_eq {s : State} (h : s.pins.snapAck.delivered = some s.lastSnap) :
    exec .updateWeighted s = .next (respond false false 0 (record .snapRead s)) := by
  rw [exec, execUpdateWeighted, snapRead_of_delivered h, updateWeightedCommit,
    decodeCommit_of_eq (S := s.lastSnap) (s := record .snapRead s) deltaW rfl]

/-- What each accepted command can do: it waits for the snapshot, commits on a snapshot, waits for the probe,
commits on the probe's answer, or is local to the CORE and answered at once. -/
inductive Executed (s : State) : Instr → State → Prop where
  | snapWaits (op : SnapOp) (h : s.pins.snapAck.delivered = none) :
      Executed s (snapInstr op) (setPhase (.waitSnap op) (record .snapRead s))
  | snapCommits (op : SnapOp) (S : Snapshot) (h : s.pins.snapAck.delivered = some S) :
      Executed s (snapInstr op) (snapCommit op S (record .snapRead s))
  | connWaits (n : Data) (h : s.pins.connAck.delivered = none) :
      Executed s (.init n) (setPhase (.waitConn n) (record .connProbe s))
  | connCommits (n : Data) (b : Bool) (h : s.pins.connAck.delivered = some b) :
      Executed s (.init n) (initCommit n b (record .connProbe s))
  | cleared : Executed s .resetAll (respond false true 0 (writeLastSnap 0 (writeLastPositions (fun _ => 0)
      (writeCounts (fun _ => 0) s))))
  | gotCount (ch : ChannelIndex) (i : Channel) (h : channelOf ch = some i) :
      Executed s (.getCount ch) (respond false true (s.countAt i) s)
  | gotNoCount (ch : ChannelIndex) (h : channelOf ch = none) :
      Executed s (.getCount ch) (respond false true 0 s)
  | setCount (ch : ChannelIndex) (i : Channel) (v : Count) (h : channelOf ch = some i) :
      Executed s (.setCount ch v) (respond false true 0 (writeCount i v s))
  | setNoCount (ch : ChannelIndex) (v : Count) (h : channelOf ch = none) :
      Executed s (.setCount ch v) (respond false false 0 s)
  | gotLastPosition (ch : ChannelIndex) (i : Channel) (h : channelOf ch = some i) :
      Executed s (.getLastPosition ch) (respond false true (zext32 (s.lastPosAt i)) s)
  | gotNoLastPosition (ch : ChannelIndex) (h : channelOf ch = none) :
      Executed s (.getLastPosition ch) (respond false true 0 s)
  | gotConfiguredCount :
      Executed s .getConfiguredCount (respond false true (zext32 s.cc) s)

/-- A command that reads a snapshot waits or commits. -/
theorem exec_snapInstr_cases (op : SnapOp) (s : State) :
    ∃ t, exec (snapInstr op) s = .next t ∧ Executed s (snapInstr op) t := by
  cases h : s.pins.snapAck.delivered with
  | none => exact ⟨_, by rw [exec_snapInstr, snapRead_of_undelivered h], .snapWaits op h⟩
  | some S => exact ⟨_, by rw [exec_snapInstr, snapRead_of_delivered h], .snapCommits op S h⟩

/-- Every command has a next state, and `Executed` lists what it can be. -/
theorem exec_cases (i : Instr) (s : State) : ∃ t, exec i s = .next t ∧ Executed s i t := by
  cases i with
  | init n =>
    cases h : s.pins.connAck.delivered with
    | none => exact ⟨_, by rw [exec, execInit, probeConnected_of_undelivered h], .connWaits n h⟩
    | some b => exact ⟨_, by rw [exec, execInit, probeConnected_of_delivered h], .connCommits n b h⟩
  | resetAll => exact ⟨_, rfl, .cleared⟩
  | prime => exact exec_snapInstr_cases .prime s
  | hasChanged => exact exec_snapInstr_cases .hasChanged s
  | update => exact exec_snapInstr_cases .update s
  | updateWeighted => exact exec_snapInstr_cases .updateWeighted s
  | getCount ch =>
    cases h : channelOf ch with
    | none => exact ⟨_, by simp [exec, execGetCount, h], .gotNoCount ch h⟩
    | some k => exact ⟨_, by simp [exec, execGetCount, h], .gotCount ch k h⟩
  | setCount ch v =>
    cases h : channelOf ch with
    | none => exact ⟨_, by simp [exec, execSetCount, h], .setNoCount ch v h⟩
    | some k => exact ⟨_, by simp [exec, execSetCount, h], .setCount ch k v h⟩
  | getLastPosition ch =>
    cases h : channelOf ch with
    | none => exact ⟨_, by simp [exec, execGetLastPosition, h], .gotNoLastPosition ch h⟩
    | some k => exact ⟨_, by simp [exec, execGetLastPosition, h], .gotLastPosition ch k h⟩
  | getConfiguredCount => exact ⟨_, rfl, .gotConfiguredCount⟩

/-- `exec_cases`, from a given next state. -/
theorem executed_of_exec {i : Instr} {s t : State} (h : exec i s = .next t) : Executed s i t := by
  obtain ⟨u, hu, hc⟩ := exec_cases i s
  rw [h] at hu
  cases hu
  exact hc

/-- A command reads nothing of its inputs but what the two acknowledges deliver, and writes nothing of them. -/
theorem exec_setInputs {i : Instr} {s t : State} {l : List Pins} (h : exec i s = .next t)
    (hs : (setInputs l s).pins.snapAck.delivered = s.pins.snapAck.delivered)
    (hc : (setInputs l s).pins.connAck.delivered = s.pins.connAck.delivered) :
    exec i (setInputs l s) = .next (setInputs l t) := by
  cases executed_of_exec h with
  | snapWaits op hd => rw [exec_snapInstr, snapRead_of_undelivered (hs.trans hd)]; rfl
  | snapCommits op S hd =>
    rw [exec_snapInstr, snapRead_of_delivered (hs.trans hd), ← snapCommit_setInputs]
    rfl
  | connWaits n hd => rw [exec, execInit, probeConnected_of_undelivered (hc.trans hd)]; rfl
  | connCommits n b hd => rw [exec, execInit, probeConnected_of_delivered (hc.trans hd)]; rfl
  | cleared => rfl
  | gotCount ch k hk => simp only [exec, execGetCount, hk]; rfl
  | gotNoCount ch hk => simp only [exec, execGetCount, hk]; rfl
  | setCount ch k v hk => simp only [exec, execSetCount, hk]; rfl
  | setNoCount ch v hk => simp only [exec, execSetCount, hk]; rfl
  | gotLastPosition ch k hk => simp only [exec, execGetLastPosition, hk]; rfl
  | gotNoLastPosition ch hk => simp only [exec, execGetLastPosition, hk]; rfl
  | gotConfiguredCount => rfl

/-- A command leaves the inputs as they are. -/
theorem exec_inputs {i : Instr} {s t : State} (h : exec i s = .next t) : t.inputs = s.inputs := by
  cases executed_of_exec h <;> simp [initCommit, (snapCommit_frame _ _ _).2.1]

end Sys2Proof.Machine
end

