-- ==== Sys2Proof/Laws/PerInstr.lean ====
section
/-! SUPPORT. Statements made for every instruction, one lemma per constructor. -/

namespace Sys2Proof.Laws.EncodesWellFormed

open Sys2Proof

/-- The word of the instruction is well formed (R56): it has the instruction's assigned opcode, and zero in every
field the instruction does not use. -/
def Statement (i : Instr) : Prop :=
  wordWellFormed (encode i) = true ∧ commandOp (encode i) = opcode i

theorem wellFormed_of_fields (i : Instr) (h : opcodeAssigned (opcode i) = true)
    (hc : opcodeUsesCh (opcode i) = true ∨ chField i = 0)
    (hd : opcodeUsesData (opcode i) = true ∨ dataField i = 0) : Statement i := by
  have h1 : (encode i).extractLsb' 40 8 = opcode i := commandOp_encode i
  have h2 : (encode i).extractLsb' 32 8 = chField i := commandCh_encode i
  have h3 : (encode i).extractLsb' 0 32 = dataField i := commandData_encode i
  refine ⟨?_, commandOp_encode i⟩
  simp only [wordWellFormed, h1, h2, h3]
  rcases hc with hc | hc <;> rcases hd with hd | hd <;> simp [h, hc, hd]

theorem init (n : Data) : Statement (.init n) :=
  wellFormed_of_fields _ rfl (.inr rfl) (.inl rfl)
theorem resetAll : Statement .resetAll :=
  wellFormed_of_fields _ rfl (.inr rfl) (.inr rfl)
theorem prime : Statement .prime :=
  wellFormed_of_fields _ rfl (.inr rfl) (.inr rfl)
theorem hasChanged : Statement .hasChanged :=
  wellFormed_of_fields _ rfl (.inr rfl) (.inr rfl)
theorem update : Statement .update :=
  wellFormed_of_fields _ rfl (.inr rfl) (.inr rfl)
theorem updateWeighted : Statement .updateWeighted :=
  wellFormed_of_fields _ rfl (.inr rfl) (.inr rfl)
theorem getCount (ch : ChannelIndex) : Statement (.getCount ch) :=
  wellFormed_of_fields _ rfl (.inl rfl) (.inr rfl)
theorem setCount (ch : ChannelIndex) (value : Count) : Statement (.setCount ch value) :=
  wellFormed_of_fields _ rfl (.inl rfl) (.inl rfl)
theorem getLastPosition (ch : ChannelIndex) : Statement (.getLastPosition ch) :=
  wellFormed_of_fields _ rfl (.inl rfl) (.inr rfl)
theorem getConfiguredCount : Statement .getConfiguredCount :=
  wellFormed_of_fields _ rfl (.inr rfl) (.inr rfl)

end Sys2Proof.Laws.EncodesWellFormed
end

