-- ==== Sys2Proof/Laws/Step.lean ====
section
/-! SUPPORT. What one step can do, said once. -/

namespace Sys2Proof.Machine

open Sys2Proof

/-! ### `acceptCommand` -/

@[simp] theorem acceptCommand_count (w : CommandWord) (s : State) : (acceptCommand w s).count = s.count := rfl
@[simp] theorem acceptCommand_lastPos (w : CommandWord) (s : State) : (acceptCommand w s).lastPos = s.lastPos := rfl
@[simp] theorem acceptCommand_cc (w : CommandWord) (s : State) : (acceptCommand w s).cc = s.cc := rfl
@[simp] theorem acceptCommand_lastSnap (w : CommandWord) (s : State) : (acceptCommand w s).lastSnap = s.lastSnap := rfl
@[simp] theorem acceptCommand_phase (w : CommandWord) (s : State) : (acceptCommand w s).phase = s.phase := rfl
@[simp] theorem acceptCommand_inputs (w : CommandWord) (s : State) : (acceptCommand w s).inputs = s.inputs := rfl
@[simp] theorem acceptCommand_trace (w : CommandWord) (s : State) :
    (acceptCommand w s).trace = .command w :: s.trace := rfl
@[simp] theorem acceptCommand_pins (w : CommandWord) (s : State) : (acceptCommand w s).pins = s.pins := rfl
@[simp] theorem acceptCommand_active (w : CommandWord) (s : State) (j : Channel) :
    (acceptCommand w s).active j = s.active j := rfl
@[simp] theorem acceptCommand_countAt (w : CommandWord) (s : State) (j : Channel) :
    (acceptCommand w s).countAt j = s.countAt j := rfl
@[simp] theorem acceptCommand_lastPosAt (w : CommandWord) (s : State) (j : Channel) :
    (acceptCommand w s).lastPosAt j = s.lastPosAt j := rfl
theorem acceptCommand_setInputs (l : List Pins) (w : CommandWord) (s : State) :
    acceptCommand w (setInputs l s) = setInputs l (acceptCommand w s) := rfl

/-! ### The step -/

/-- Everything a step can do. -/
inductive Stepped (s : State) : State → Prop where
  | reset (h : s.pins.rst = true) : Stepped s (tick (resetEvent s))
  | quiet (h : s.pins.rst = false) (hp : s.phase = .idle) (hc : s.pins.cmd = none) : Stepped s (tick s)
  | command (w : CommandWord) (i : Instr) (t : State) (h : s.pins.rst = false) (hp : s.phase = .idle)
      (hc : s.pins.cmd = some w) (hd : decode w = .ok i) (he : exec i (acceptCommand w s) = .next t) : Stepped s (tick t)
  | illegal (w : CommandWord) (e : DecodeError) (h : s.pins.rst = false) (hp : s.phase = .idle)
      (hc : s.pins.cmd = some w) (hd : decode w = .error e) : Stepped s (tick (respondIllegal (acceptCommand w s)))
  | waitSnap (op : SnapOp) (h : s.pins.rst = false) (hp : s.phase = .waitSnap op) :
      Stepped s (tick (waitForSnap op s))
  | waitConn (n : Data) (h : s.pins.rst = false) (hp : s.phase = .waitConn n) :
      Stepped s (tick (waitForConn n s))
  | respond (r : ResponseWord) (h : s.pins.rst = false) (hp : s.phase = .respond r) :
      Stepped s (tick (offerResponse r s))

/-- A step always has a next state, and `Stepped` lists what it can be. -/
theorem step_cases (s : State) : ∃ t, step s = .next t ∧ Stepped s t := by
  cases hr : s.pins.rst with
  | true => exact ⟨_, by simp [step, hr], .reset hr⟩
  | false =>
    cases hp : s.phase with
    | idle =>
      cases hc : s.pins.cmd with
      | none => exact ⟨_, by simp [step, hr, hp, hc], .quiet hr hp hc⟩
      | some w =>
        cases hd : decode w with
        | ok i =>
          obtain ⟨t, ht, -⟩ := exec_cases i (acceptCommand w s)
          exact ⟨_, by simp [step, hr, hp, hc, hd, ht, tickOutcome], .command w i t hr hp hc hd ht⟩
        | error e => exact ⟨_, by simp [step, hr, hp, hc, hd], .illegal w e hr hp hc hd⟩
    | waitSnap op => exact ⟨_, by simp [step, hr, hp], .waitSnap op hr hp⟩
    | waitConn n => exact ⟨_, by simp [step, hr, hp], .waitConn n hr hp⟩
    | respond r => exact ⟨_, by simp [step, hr, hp], .respond r hr hp⟩

/-- `step_cases`, from a given next state. -/
theorem stepped_of_step {s t : State} (h : step s = .next t) : Stepped s t := by
  obtain ⟨u, hu, hc⟩ := step_cases s
  rw [h] at hu
  cases hu
  exact hc

/-! ### What a step does to the phase and to the port history -/

/-- A command leaves `IDLE`, and adds to the port history at most one transport request. -/
theorem exec_ports {i : Instr} {s t : State} (h : exec i s = .next t) :
    t.phase ≠ .idle ∧
      (t.trace = s.trace ∨ t.trace = .snapRead :: s.trace ∨ t.trace = .connProbe :: s.trace) := by
  cases executed_of_exec h with
  | snapWaits op _ => exact ⟨by simp, .inr (.inl rfl)⟩
  | snapCommits op S _ =>
    obtain ⟨-, -, ht, ok, data, hp⟩ := snapCommit_frame op S (record .snapRead s)
    exact ⟨by simp [hp], .inr (.inl ht)⟩
  | connWaits => exact ⟨by simp, .inr (.inr rfl)⟩
  | connCommits => exact ⟨by simp [initCommit], .inr (.inr rfl)⟩
  | _ => exact ⟨by simp, .inl rfl⟩

/-- A step in `WAIT_SNAP(op)` adds nothing to the port history and does not lead to `IDLE`. -/
theorem waitForSnap_ports (op : SnapOp) (s : State) :
    (waitForSnap op s).trace = s.trace ∧ (s.phase ≠ .idle → (waitForSnap op s).phase ≠ .idle) := by
  unfold waitForSnap
  split
  · obtain ⟨-, -, ht, ok, data, hp⟩ := snapCommit_frame op ‹_› s
    exact ⟨ht, fun _ => by simp [hp]⟩
  · exact ⟨rfl, id⟩

/-- A step in `WAIT_CONN(n)` adds nothing to the port history and does not lead to `IDLE`. -/
theorem waitForConn_ports (n : Data) (s : State) :
    (waitForConn n s).trace = s.trace ∧ (s.phase ≠ .idle → (waitForConn n s).phase ≠ .idle) := by
  unfold waitForConn
  split
  · exact ⟨rfl, fun _ => by simp [initCommit]⟩
  · exact ⟨rfl, id⟩

/-- A run of `k + 1` steps is one step and a run of `k`. -/
theorem core_run_of_next {s t : State} (k : Nat) (h : step s = .next t) :
    Host.Core.run Sys2Proof.core (k + 1) s = Host.Core.run Sys2Proof.core k t := by
  have hc : Sys2Proof.core.step s = .next t := h
  simp only [Host.Core.run, hc]

end Sys2Proof.Machine
end

