-- ==== Sys2Proof/Tests/Slice0.lean ====
section
/-! SUPPORT. The model's own tests. The words of the decode tests are written out from the encodings of R59 to R80;
the vectors (V-…) and examples (E…) are those of spec/95_test_vectors.md. The witnesses show, for each statement that
has hypotheses, a state and operands that meet them all together. -/

namespace Sys2Proof.Tests

open Sys2Proof Sys2Proof.Machine

/-! ### Builders -/

/-- The next state of an outcome. -/
def nextOf : Host.Outcome State Fault Refusal → Option State
  | .next s => some s
  | .fault _ => none
  | .refused _ => none

/-- One observation of the next state. -/
def seen {α : Type} (f : State → α) (o : Host.Outcome State Fault Refusal) : Option α := (nextOf o).map f

/-- The reset state with `cc` channels and the inputs `l`. -/
def withCc (cc : Nat) (l : List Pins) : State := { State.reset with cc := BitVec.ofNat 4 cc, inputs := l }

/-- Channel `i` has this count and this last position. -/
def withChannel (i : Channel) (c : Count) (p : Position) (s : State) : State :=
  writeLastPos i p (writeCount i c s)

/-- Pins on which the transport answers a probe. -/
def answeringConn (b : Bool) : Pins := { Pins.quiet with connAck := .fresh b }

/-- Pins on which the HOST offers a word. -/
def offering (w : CommandWord) : Pins := { Pins.quiet with cmd := some w }

/-- The fields of the response offered: `err`, `ok`, `data`. -/
def answer (s : State) : Option (Bool × Bool × Data) :=
  (rspOffered s).map fun r => (responseErr r, responseOk r, responseData r)

/-! ### Parameters (R9) -/

theorem test_widths_follow_config :
    Count = BitVec Config.countW ∧ Snapshot = BitVec Config.snapW ∧ Position = BitVec Config.fieldW ∧
      CommandWord = BitVec Config.cmdW ∧ ResponseWord = BitVec Config.rspW :=
  ⟨rfl, rfl, rfl, rfl, rfl⟩

/-! ### Well-formed words: one ill-formed word for each check -/

theorem test_reserved_word_ill_formed : wordWellFormed 0x0B0000000000#48 = false := by decide
theorem test_zero_word_ill_formed : wordWellFormed 0x000000000000#48 = false := by decide
theorem test_unused_ch_ill_formed : wordWellFormed 0x015500000004#48 = false := by decide
theorem test_unused_data_ill_formed : wordWellFormed 0x070200000001#48 = false := by decide
theorem test_used_fields_well_formed : wordWellFormed 0x08FFFFFFFFFF#48 = true := by decide

/-! ### Decoding, one word for each constructor and the words of 95_test_vectors.md section 2.5 -/

theorem test_decode_init : decodeTableWord 48 0x01000000000C = some (.init 12) := by decide
theorem test_decode_resetAll : decodeTableWord 48 0x020000000000 = some .resetAll := by decide
theorem test_decode_prime : decodeTableWord 48 0x030000000000 = some .prime := by decide
theorem test_decode_hasChanged : decodeTableWord 48 0x040000000000 = some .hasChanged := by decide
theorem test_decode_update : decodeTableWord 48 0x050000000000 = some .update := by decide
theorem test_decode_updateWeighted : decodeTableWord 48 0x060000000000 = some .updateWeighted := by decide
theorem test_decode_getCount : decodeTableWord 48 0x070200000000 = some (.getCount 2) := by decide
theorem test_decode_setCount :
    decodeTableWord 48 0x0803FFFFFFFF = some (.setCount 3 0xFFFFFFFF#32) := by decide
theorem test_decode_getLastPosition :
    decodeTableWord 48 0x090100000000 = some (.getLastPosition 1) := by decide
theorem test_decode_getConfiguredCount :
    decodeTableWord 48 0x0A0000000000 = some .getConfiguredCount := by decide
theorem test_decode_zero_reserved : decodeTableWord 48 0 = none := by decide
theorem test_decode_ff_reserved : decodeTableWord 48 0xFF0312345678 = none := by decide
theorem test_decode_ignores_unused : decodeTableWord 48 0x05AB12345678 = some .update := by decide
theorem test_encode_setCount : encode (.setCount 3 0xFFFFFFFF#32) = 0x0803FFFFFFFF#48 := by decide

/-! ### Assembler (R56, R57) -/

theorem test_assemble_setCount :
    (Asm.assembleLine "SET_COUNT 3, -1").toOption = some [0x0803FFFFFFFF#48] := by decide
theorem test_assemble_init_comment :
    (Asm.assembleLine "  INIT 0x0C ; snap <- 0x0001").toOption = some [0x01000000000C#48] := by decide
theorem test_assemble_start :
    (Asm.assembleLine "START 2").toOption
      = some [0x020000000000#48, 0x010000000002#48, 0x030000000000#48] := by decide
theorem test_assemble_raw_word :
    (Asm.assembleLine ".word 0xFF0312345678").toOption = some [0xFF0312345678#48] := by decide
theorem test_assemble_ch_out_of_range : (Asm.assembleLine "GET_COUNT 256").toOption = none := by decide

/-! ### Setup -/

/-- V-S05. -/
theorem test_init_256_clamps :
    seen (fun t => (t.cc, answer t)) (exec (.init 256) (withCc 0 [answeringConn true]))
      = some (8, some (false, true, 0)) := by decide

/-- V-S07. -/
theorem test_init_writes_cc_on_failure :
    seen (fun t => (t.cc, answer t)) (exec (.init 3) (withCc 0 [answeringConn false]))
      = some (3, some (false, false, 0)) := by decide

/-- V-S10, two of its channels. -/
theorem test_resetAll_keeps_cc :
    seen (fun t => (t.cc, t.lastSnap, t.count.toList, t.lastPos.toList))
        (exec .resetAll (withChannel 0 5 1 (withChannel 7 9 2 (writeLastSnap 0x8039 (withCc 3 [])))))
      = some (3, 0, [0, 0, 0, 0, 0, 0, 0, 0], [0, 0, 0, 0, 0, 0, 0, 0]) := by decide

/-! ### Sampling -/

/-- V-P01. -/
theorem test_prime_two_channels :
    seen (fun t => (t.lastPos.toList, t.lastSnap, answer t))
        (exec .prime (withCc 2 [answeringSnap 0x0007]))
      = some ([3, 1, 0, 0, 0, 0, 0, 0], 0x0007, some (false, true, 7)) := by decide

/-- V-P03. -/
theorem test_prime_all_channels :
    seen (fun t => t.lastPos.toList) (exec .prime (withCc 8 [answeringSnap 0xE4E4]))
      = some [0, 1, 2, 3, 0, 1, 2, 3] := by decide

/-- V-H03: only an inactive field differs. -/
theorem test_hasChanged_inactive_field :
    seen (fun t => (t.phase, t.lastSnap))
        (exec .hasChanged (writeLastSnap 0x0001 (withCc 1 [answeringSnap 0x8001])))
      = some (.respond (responseWord false true 0), 0x0001) := by decide

/-- V-H04. -/
theorem test_hasChanged_same :
    seen (fun t => t.phase) (exec .hasChanged (withCc 0 [answeringSnap 0x0000]))
      = some (.respond (responseWord false false 0)) := by decide

/-! ### Decode -/

/-- V-D26. -/
theorem test_update_all_reverse :
    seen (fun t => (t.count.toList, t.lastPos.toList)) (exec .update (withCc 8 [answeringSnap 0xAAAA]))
      = some (List.replicate 8 0xFFFFFFFF#32, List.replicate 8 2#2) := by decide

/-- V-D19: the channel that moves is inactive. -/
theorem test_update_inactive_lane :
    seen (fun t => (t.lastSnap, t.countAt 1, t.lastPosAt 1, t.phase))
        (exec .update (withChannel 0 0 1 (writeLastSnap 0x0001 (withCc 1 [answeringSnap 0x0005]))))
      = some (0x0005, 0, 0, .respond (responseWord false true 0)) := by decide

/-- V-D23. -/
theorem test_updateWeighted_reverse_wraps :
    seen (fun t => t.countAt 0)
        (exec .updateWeighted (withChannel 0 0x7FFFFFFE 0 (withCc 1 [answeringSnap 0x0002])))
      = some 0x80000001 := by decide

/-- V-D27. -/
theorem test_updateWeighted_all_skip :
    seen (fun t => (t.count.toList, t.lastPos.toList))
        (exec .updateWeighted (withCc 8 [answeringSnap 0xFFFF]))
      = some (List.replicate 8 2#32, List.replicate 8 3#2) := by decide

/-! ### Access -/

/-- V-A02: an inactive channel is in range. -/
theorem test_getCount_inactive :
    seen answer (exec (.getCount 6) (withChannel 6 9 0 (withCc 2 []))) = some (some (false, true, 9)) := by
  decide

/-- V-A07. -/
theorem test_getCount_255 :
    seen answer (exec (.getCount 255) (withChannel 7 9 0 (withCc 2 []))) = some (some (false, true, 0)) := by
  decide

/-- V-A09. -/
theorem test_setCount_inactive :
    seen (fun t => (t.countAt 5, answer t)) (exec (.setCount 5 0x80000000#32) (withCc 1 []))
      = some (0x80000000, some (false, true, 0)) := by decide

/-- V-A05. -/
theorem test_setCount_out_of_range :
    seen (fun t => (t.count.toList, answer t)) (exec (.setCount 8 5) (withCc 8 []))
      = some (List.replicate 8 0#32, some (false, false, 0)) := by decide

/-- V-A10. -/
theorem test_getLastPosition :
    seen answer (exec (.getLastPosition 1) (withChannel 1 0 3 (withCc 8 [])))
      = some (some (false, true, 3)) := by decide

/-- V-A06. -/
theorem test_getLastPosition_out_of_range :
    seen answer (exec (.getLastPosition 8) (withChannel 0 0 3 (withCc 8 [])))
      = some (some (false, true, 0)) := by decide

/-- E9, its second command. -/
theorem test_getConfiguredCount :
    seen answer (exec .getConfiguredCount (withCc 8 [])) = some (some (false, true, 8)) := by decide

/-! ### Steps -/

/-- V-E03. -/
theorem test_step_reserved :
    seen answer (step (State.reset.withFetchWord 48 0xFF0312345678)) = some (some (true, false, 0)) := by decide

/-- The first instruction after reset, through the decoder. -/
theorem test_step_first_instruction :
    seen (fun t => t.countAt 3) (step (State.reset.withFetchWord 48 0x0803FFFFFFFF))
      = some 0xFFFFFFFF := by decide

/-- V-RS02, its first event: UPDATE waits for the transport. -/
theorem test_step_update_waits :
    seen (fun t => (t.phase, snapReq t)) (step (withCc 1 [offering 0x050000000000#48]))
      = some (.waitSnap .update, true) := by decide

/-- V-RS02, its second event: the reset abandons the waiting UPDATE, though an answer comes with it. -/
theorem test_step_reset_abandons :
    seen (fun t => (t.phase, t.cc, t.lastSnap, t.trace))
        (step (setPhase (.waitSnap .update) (withCc 8 [{ answeringSnap 0x0001 with rst := true }])))
      = some (.idle, 0, 0, []) := by decide

/-! ### Witnesses of the statements' hypotheses -/

/-- A state that offers a well-formed word in `IDLE`. -/
def offered (w : CommandWord) : State := withCc 2 [offering w]

/-- A state in which UPDATE is answered with `S`: `cc = 2`, positions 0, cache `0x0000`. -/
def answered (S : Snapshot) : State := withCc 2 [answeringSnap S]

theorem witness_ResetEventOverridesEveryPhase :
    (setPhase (.waitConn 3) (withCc 2 [{ offering 0x020000000000#48 with rst := true }])).pins.rst = true := by
  decide

theorem witness_EncodeDecodeGivesWellFormedWordBack :
    wordWellFormed 0x0803FFFFFFFF#48 = true ∧ wordWellFormed 0x0A0000000000#48 = true := by decide

/-- The first and the last assigned opcode, and the reserved ones next to them. -/
theorem witness_DecodeAcceptsExactlyAssignedOpcodes :
    decode 0x010000000000#48 = .ok (.init 0) ∧ decode 0x0A0000000000#48 = .ok .getConfiguredCount ∧
      decode 0x000000000000#48 = .error (.reservedOpcode 0x00) ∧
      decode 0x0B0000000000#48 = .error (.reservedOpcode 0x0B) := ⟨rfl, rfl, rfl, rfl⟩

theorem witness_DecodeReadsOnlyUsedFields :
    let w := 0x07021234ABCD#48
    let v := 0x070200000000#48
    w.extractLsb' 40 8 = v.extractLsb' 40 8 ∧
      (opcodeUsesCh (w.extractLsb' 40 8) = true → w.extractLsb' 32 8 = v.extractLsb' 32 8) ∧
      (opcodeUsesData (w.extractLsb' 40 8) = true → w.extractLsb' 0 32 = v.extractLsb' 0 32) := by decide

theorem witness_StepRunsDecodedCommand :
    let s := offered 0x080300000007#48
    s.pins.rst = false ∧ s.phase = .idle ∧ s.pins.cmd = some 0x080300000007#48 ∧
      decode 0x080300000007#48 = .ok (.setCount 3 7) := ⟨rfl, rfl, rfl, rfl⟩

theorem witness_StepRunsFetchedTableWord :
    decodeTableWord 48 0x010000000008 = some (.init 8) := by decide

theorem witness_ReservedOpcodeIsAnsweredIllegal :
    [0x000000000000#48, 0x0B0000000000#48, 0xFF0312345678#48].all (fun w =>
      decide ((offered w).pins.rst = false ∧ (offered w).phase = .idle ∧ (offered w).pins.cmd = some w ∧
        ((w.extractLsb' 40 8).toNat = 0x00 ∨ 0x0B ≤ (w.extractLsb' 40 8).toNat))) = true := by decide

theorem witness_WaitingCommandHoldsUntilAnswer :
    ∃ s u : State, (s.pins.rst = false ∧ s.phase = .waitSnap .prime ∧ s.pins.snapAck.delivered = none) ∧
      (u.pins.rst = false ∧ u.phase = .waitConn 3 ∧ u.pins.connAck.delivered = none) :=
  ⟨setPhase (.waitSnap .prime) (withCc 2 [{ Pins.quiet with snapAck := .late 0x0003 }]),
    setPhase (.waitConn 3) (withCc 2 []), ⟨rfl, rfl, rfl⟩, ⟨rfl, rfl, rfl⟩⟩

theorem witness_ResponseIsHeldUntilTaken :
    ∃ s u : State, (s.pins.rst = false ∧ s.phase = .respond (responseWord false true 5) ∧ s.pins.rspReady = false) ∧
      (u.pins.rst = false ∧ u.phase = .respond (responseWord false true 5) ∧ u.pins.rspReady = true) :=
  ⟨respond false true 5 (withCc 2 [Pins.quiet]),
    respond false true 5 (withCc 2 [{ Pins.quiet with rspReady := true }]), ⟨rfl, rfl, rfl⟩, ⟨rfl, rfl, rfl⟩⟩

theorem witness_CommandIsNotAcceptedWhileBusy :
    (setPhase (.waitSnap .update) (withCc 2 [])).phase ≠ .idle := by decide

theorem witness_ResponsesAndOutstandingCommandsBalance :
    (offered 0x070100000000#48).pins.rst = false ∧
      seen responsesTaken (step (offered 0x070100000000#48)) = some 0 ∧
      accepts (offered 0x070100000000#48) = true := by decide

theorem witness_DelayedAnswerEqualsImmediateAnswer_snap :
    let p₀ := offering 0x050000000000#48
    let p₁ := answeringSnap 0x0001
    let s := withCc 2 (p₀ :: ([offering 0x020000000000#48] ++ p₁ :: []))
    s.phase = .idle ∧ p₀.rst = false ∧ p₀.cmd = some 0x050000000000#48 ∧ p₁.rst = false ∧
      (∀ q ∈ [offering 0x020000000000#48], q.rst = false ∧ q.snapAck.delivered = none) ∧
      decodeTableWord 48 0x050000000000 = some (snapInstr .update) ∧ p₀.snapAck.delivered = none ∧
      p₁.snapAck.delivered = some 0x0001 ∧
      seen (fun u => u.countAt 0) (exec (snapInstr .update) (setInputs [p₁] (acceptCommand 0x050000000000#48 s))) = some 1 := by decide

theorem witness_DelayedAnswerEqualsImmediateAnswer_conn :
    let p₀ := offering 0x010000000005#48
    let p₁ := answeringConn true
    let s := withCc 2 (p₀ :: ([Pins.quiet] ++ p₁ :: []))
    s.phase = .idle ∧ p₀.rst = false ∧ p₀.cmd = some 0x010000000005#48 ∧ p₁.rst = false ∧
      (∀ q ∈ [Pins.quiet], q.rst = false ∧ q.connAck.delivered = none) ∧
      decodeTableWord 48 0x010000000005 = some (.init 5) ∧ p₀.connAck.delivered = none ∧
      p₁.connAck.delivered = some true ∧
      seen (fun u => u.cc) (exec (.init 5) (setInputs [p₁] (acceptCommand 0x010000000005#48 s))) = some 5 := by decide

/-- The answers that end a wait, one for each phase of the statement. -/
theorem witness_AnsweredWaitOffersResponse :
    [SnapOp.prime, .hasChanged, .update, .updateWeighted].all (fun op =>
      let s := setPhase (.waitSnap op) (answered 0x0001)
      decide (s.pins.rst = false ∧ s.pins.snapAck.delivered = some 0x0001 ∧ s.phase = .waitSnap op)) = true ∧
    (setPhase (.waitConn 9) (withCc 2 [answeringConn true])).pins.rst = false ∧
    (setPhase (.waitConn 9) (withCc 2 [answeringConn true])).pins.connAck.delivered = some true ∧
    (setPhase (.waitConn 9) (withCc 2 [answeringConn true])).phase = .waitConn 9 := by decide

/-- The response to the one command accepted so far is offered, and the HOST takes it. -/
def takingLast : State :=
  { respond false true 2 (withCc 2 [{ Pins.quiet with rspReady := true }]) with
    trace := [.command 0x0A0000000000#48] }

theorem takingLast_inRun : InRun [] takingLast := ⟨[.command 0x0A0000000000#48], rfl, rfl, fun _ => rfl⟩

theorem witness_EveryStepKeepsRun :
    State.reset.phase = .idle ∧ InRun [] takingLast ∧ ∃ t, step takingLast = .next t :=
  ⟨rfl, takingLast_inRun, ⟨_, rfl⟩⟩

theorem witness_RunEndsWhenLastResponseIsTaken :
    InRun [] takingLast ∧ takingLast.phase ≠ .idle ∧ ¬ RunEnded [] [0x0A0000000000#48] takingLast ∧
      ∃ t, step takingLast = .next t ∧ RunEnded [] [0x0A0000000000#48] t :=
  ⟨takingLast_inRun, by decide, fun h => absurd h.1 (by decide),
    ⟨_, rfl, rfl, [.response (responseWord false true 2), .command 0x0A0000000000#48], rfl, rfl, rfl⟩⟩

/-- A command that a reset abandoned (R97) has not ended its run, though `phase` is `IDLE`. -/
theorem test_abandoned_command_has_not_ended :
    ¬ RunEnded [] [0x050000000000#48] { withCc 0 [] with trace := [.snapRead, .command 0x050000000000#48] } := by
  rintro ⟨-, events, h, -, ho⟩
  rw [List.append_nil] at h
  subst h
  cases ho

/-- A word offered while the CORE is busy is not accepted (R53), so it is in no history and ends no run. -/
theorem test_dropped_word_is_not_accepted :
    seen (fun t => commandsAccepted t.trace)
        (step (setPhase (.waitSnap .update) (withCc 1 [offering 0x020000000000#48])))
      = some [] := by decide

/-- An accepted word is recorded before the request its command makes. -/
theorem test_accepted_word_is_recorded :
    seen (fun t => t.trace) (step (withCc 1 [offering 0x050000000000#48]))
      = some [.snapRead, .command 0x050000000000#48] := by decide

theorem witness_EndedRunStaysEnded :
    let s : State := { withCc 2 [answeringSnap 0x0001] with
      trace := [.response (responseWord false true 2), .command 0x0A0000000000#48] }
    RunEnded [] [0x0A0000000000#48] s ∧ accepts s = false ∧ s.pins.rst = false ∧ ∃ t, step s = .next t :=
  ⟨⟨rfl, _, (List.append_nil _).symm, rfl, rfl⟩, rfl, rfl, ⟨_, rfl⟩⟩

theorem witness_NothingHappensWithoutInputs :
    (setPhase (.waitSnap .update) (withCc 2 [])).inputs = [] := rfl

theorem witness_InitWritesClampedCountAndAnswersProbe :
    (0x01FF00000009#48).extractLsb' 40 8 = 0x01#8 ∧ (0x01FF00000009#48).extractLsb' 0 32 = 9#32 ∧
      (withCc 2 [answeringConn true]).pins.connAck.delivered = some true ∧
      (withCc 2 [answeringConn false]).pins.connAck.delivered = some false ∧
      (withCc 2 []).pins.connAck.delivered = none := by decide

theorem witness_command_words :
    (0x02FF00000001#48).extractLsb' 40 8 = 0x02#8 ∧ (0x03FF00000001#48).extractLsb' 40 8 = 0x03#8 ∧
      (0x04FF00000001#48).extractLsb' 40 8 = 0x04#8 ∧ (0x05AB12345678#48).extractLsb' 40 8 = 0x05#8 ∧
      (0x06AB12345678#48).extractLsb' 40 8 = 0x06#8 ∧ (0x0A0700000009#48).extractLsb' 40 8 = 0x0A#8 := by decide

theorem witness_PrimeLoadsCacheAndActivePositions :
    (answered 0x0007).pins.snapAck.delivered = some 0x0007 ∧
      (withCc 2 []).pins.snapAck.delivered = none := by decide

theorem witness_HasChangedComparesAndWritesNothing :
    (answered 0x0000).pins.snapAck.delivered = some 0x0000 ∧
      (answered 0x8000).pins.snapAck.delivered = some 0x8000 ∧
      (withCc 2 []).pins.snapAck.delivered = none := by decide

/-- The early exit, the full decode with its last active and its first inactive channel, and the wait. -/
theorem witness_UpdateDecodesActiveChannels :
    (answered 0x0000).pins.snapAck.delivered = some (answered 0x0000).lastSnap ∧
      ((answered 0x0005).pins.snapAck.delivered = some 0x0005 ∧ (0x0005 : Snapshot) ≠ (answered 0x0005).lastSnap) ∧
      ((1 : Channel).val < (answered 0x0005).cc.toNat ∧ (answered 0x0005).cc.toNat ≤ (2 : Channel).val) ∧
      (withCc 2 []).pins.snapAck.delivered = none := by decide

/-- The same states meet the hypotheses of the statement about UPDATE_WEIGHTED. -/
theorem witness_UpdateWeightedDecodesActiveChannels :
    (answered 0x0000).pins.snapAck.delivered = some (answered 0x0000).lastSnap ∧
      ((answered 0x000F).pins.snapAck.delivered = some 0x000F ∧ (0x000F : Snapshot) ≠ (answered 0x000F).lastSnap) ∧
      ((1 : Channel).val < (answered 0x000F).cc.toNat ∧ (answered 0x000F).cc.toNat ≤ (2 : Channel).val) ∧
      (withCc 2 []).pins.snapAck.delivered = none := by decide

/-- Two different states and snapshots that agree on channel 0, and the two next states. -/
theorem witness_LaneReadsOnlyItsOwnChannel :
    let s := answered 0x0001
    let s' := withChannel 1 7 3 (answered 0x0009)
    s.active 0 = s'.active 0 ∧ s.countAt 0 = s'.countAt 0 ∧ s.lastPosAt 0 = s'.lastPosAt 0 ∧
      field 0x0001 0 = field 0x0009 0 ∧ (0x0001 : Snapshot) ≠ s.lastSnap ∧ (0x0009 : Snapshot) ≠ s'.lastSnap ∧
      s.pins.snapAck.delivered = some 0x0001 ∧ s'.pins.snapAck.delivered = some 0x0009 ∧
      (nextOf (exec .update s)).isSome = true ∧ (nextOf (exec .update s')).isSome = true ∧
      (nextOf (exec .updateWeighted s)).isSome = true ∧ (nextOf (exec .updateWeighted s')).isSome = true := by
  decide

theorem witness_WeightedCountFollowsGrayPosition :
    seen (fun t => t.countAt 0) (exec .updateWeighted (answered 0x0002)) = some 3 := by decide

/-- Each of its four clauses: fields 1, 2 and 3, and the snapshot 0. -/
theorem witness_UnprimedStartCountsSpuriousSteps :
    [0x0001#16, 0x0002#16, 0x0003#16, 0x0000#16].all (fun S =>
      decide ((answered S).lastSnap = 0x0000#16 ∧ (answered S).lastPosAt 0 = 0b00#2 ∧ (answered S).active 0 = true ∧
        (answered S).pins.snapAck.delivered = some S ∧ (field S 0).toNat = S.toNat)) = true := by decide

/-- One forward step and one step back, on channel 0. -/
theorem witness_CountsFollowRotationWhenSampledOften :
    (answered 0x0001).active 0 = true ∧ (answered 0x0001).lastPosAt 0 = fieldAtRotation 0 ∧
      field (answered 0x0001).lastSnap 0 = fieldAtRotation 0 ∧
      SampledOften 0 [0x0001#16, 0x0000#16] 0 0 ∧ ∃ t, Polled [0x0001#16, 0x0000#16] (answered 0x0001) t := by
  refine ⟨by decide, by decide, by decide, ?_, ?_⟩
  · exact ⟨1, by decide, by decide, 0, by decide, by decide, rfl⟩
  · simp only [Polled]
    exact ⟨_, _, exec_update_of_ne (S := 0x0001#16) rfl (by decide), _,
      exec_update_of_ne (S := 0x0000#16) rfl (by simp), rfl⟩

theorem witness_GetCountReadsChannelOrZero :
    ((0x070712345678#48).extractLsb' 40 8 = 0x07#8 ∧ (0x070712345678#48).extractLsb' 32 8 = 7#8) ∧
      (7#8).toNat < 8 ∧ 8 ≤ (8#8).toNat ∧ 8 ≤ (255#8).toNat := by decide

theorem witness_SetCountWritesOneCount :
    ((0x0807FFFFFFFF#48).extractLsb' 40 8 = 0x08#8 ∧ (0x0807FFFFFFFF#48).extractLsb' 32 8 = 7#8 ∧
      (0x0807FFFFFFFF#48).extractLsb' 0 32 = 0xFFFFFFFF#32) ∧
      (7#8).toNat < 8 ∧ 8 ≤ (8#8).toNat ∧ 8 ≤ (255#8).toNat := by decide

theorem witness_GetLastPositionReadsChannelOrZero :
    ((0x090712345678#48).extractLsb' 40 8 = 0x09#8 ∧ (0x090712345678#48).extractLsb' 32 8 = 7#8) ∧
      (7#8).toNat < 8 ∧ 8 ≤ (8#8).toNat ∧ 8 ≤ (255#8).toNat := by decide

theorem witness_GetConfiguredCountReadsCount : Inv (withCc 8 []) :=
  ⟨by decide, fun _ h => Phase.noConfusion h⟩

/-- The written index and another, the last index in range and the first out of range, each way round. -/
theorem witness_SetCountThenGetCountReadsBack :
    ∀ p ∈ ([(3, 3), (3, 4), (7, 7), (7, 8), (8, 7), (8, 8)] : List (ChannelIndex × ChannelIndex)),
      ∃ t u v, exec (.setCount p.1 7) (withCc 2 []) = .next t ∧ exec (.getCount p.2) t = .next u ∧
        exec (.getCount p.2) (withCc 2 []) = .next v := by
  simp only [List.forall_mem_cons]
  refine ⟨?_, ?_, ?_, ?_, ?_, ?_, by simp⟩ <;> exact ⟨_, _, _, rfl, rfl, rfl⟩

/-- A reset, a step that does not configure and one that does. -/
theorem witness_ChannelCountIsZeroUntilInit :
    (withCc 2 [{ Pins.quiet with rst := true }]).pins.rst = true ∧
      UnconfiguredUntilInit [] (withCc 0 [offering 0x020000000000#48]) ∧
      (∃ t, step (withCc 0 [offering 0x020000000000#48]) = .next t) ∧
      UnconfiguredUntilInit [] (withCc 0 [{ answeringConn true with cmd := some 0x010000000004#48 }]) ∧
      seen (fun t => t.cc) (step (withCc 0 [{ answeringConn true with cmd := some 0x010000000004#48 }])) = some 4 :=
  ⟨rfl, ⟨[], rfl, fun _ => ⟨rfl, fun _ h => Phase.noConfusion h⟩⟩, ⟨_, rfl⟩,
    ⟨[], rfl, fun _ => ⟨rfl, fun _ h => Phase.noConfusion h⟩⟩, by decide⟩

theorem witness_CommandsMakeExactlyTheirTransportRequests :
    (∃ t, exec .prime (withCc 2 []) = .next t) ∧
    (∃ t, step (setPhase (.waitSnap .update) (answered 0x0001)) = .next t ∧
      (setPhase (.waitSnap .update) (answered 0x0001)).pins.rst = false) ∧
    (∃ t, step (setPhase (.waitConn 3) (withCc 2 [answeringConn true])) = .next t ∧
      (setPhase (.waitConn 3) (withCc 2 [answeringConn true])).pins.rst = false) ∧
    (∃ t, step (offered 0x0B0000000000#48) = .next t ∧ (offered 0x0B0000000000#48).pins.rst = false ∧
      decode 0x0B0000000000#48 = .error (.reservedOpcode 0x0B)) :=
  ⟨⟨_, rfl⟩, ⟨_, rfl, rfl⟩, ⟨_, rfl, rfl⟩, ⟨_, rfl, rfl, rfl⟩⟩

theorem witness_CommandsNeverAnswerErr :
    (∃ t, exec (.setCount 8 1) (withCc 2 []) = .next t ∧ t.phase = .respond (responseWord false false 0)) ∧
    (∃ t, step (setPhase (.waitSnap .prime) (answered 0x0001)) = .next t ∧
      t.phase = .respond (responseWord false true 1)) ∧
    (∃ t, step (setPhase (.waitConn 3) (withCc 2 [answeringConn false])) = .next t ∧
      t.phase = .respond (responseWord false false 0)) ∧
    (∃ t, step (offered 0x0B0000000000#48) = .next t ∧ t.phase = .respond (responseWord true false 0) ∧
      responseErr (responseWord true false 0) = true) :=
  ⟨⟨_, rfl, rfl⟩, ⟨_, rfl, rfl⟩, ⟨_, rfl, rfl⟩, ⟨_, rfl, rfl, rfl⟩⟩

theorem witness_OnlyCountWritersChangeCounts :
    seen (fun t => decide (t.count ≠ (offered 0x080300000007#48).count)) (step (offered 0x080300000007#48))
      = some true := by decide

theorem witness_OnlyPositionWritersChangePositions :
    seen (fun t => decide (t.lastPos ≠ (answered 0x0001).lastPos))
      (step (setPhase (.waitSnap .prime) (answered 0x0001))) = some true := by decide

theorem witness_OnlyInitChangesChannelCount :
    seen (fun t => decide (t.cc ≠ 2)) (step (setPhase (.waitConn 3) (withCc 2 [answeringConn true])))
      = some true := by decide

theorem witness_OnlyCacheWritersChangeSnapshotCache :
    seen (fun t => decide (t.lastSnap ≠ 0)) (step (setPhase (.waitSnap .update) (answered 0x0001)))
      = some true := by decide

theorem witness_InactiveChannelsAreInert :
    (answered 0x0010).active 2 = false ∧ (nextOf (exec .update (answered 0x0010))).isSome = true ∧
      Instr.update ≠ .resetAll := by decide

theorem witness_EveryStepKeepsInvariant :
    Inv (withCc 8 [offering 0x050000000000#48]) ∧
      ∃ t, step (withCc 8 [offering 0x050000000000#48]) = .next t :=
  ⟨⟨by decide, fun _ h => Phase.noConfusion h⟩, ⟨_, rfl⟩⟩

theorem witness_EveryStepKeepsTracking :
    Tracks (setPhase (.waitSnap .update) (answered 0x0001)) ∧
      ∃ t, step (setPhase (.waitSnap .update) (answered 0x0001)) = .next t ∧ t.cc.toNat ≤ 2 :=
  ⟨by unfold Tracks; decide, ⟨_, rfl, by decide⟩⟩

theorem witness_SamplingEstablishesTracking :
    (answered 0x0007).pins.snapAck.delivered = some 0x0007 ∧ (0x0007 : Snapshot) ≠ (answered 0x0007).lastSnap ∧
      (nextOf (exec .prime (answered 0x0007))).isSome = true ∧
      (nextOf (exec .update (answered 0x0007))).isSome = true ∧
      (nextOf (exec .updateWeighted (answered 0x0007))).isSome = true ∧
      (nextOf (exec .resetAll (answered 0x0007))).isSome = true := by decide

end Sys2Proof.Tests
end

/-!
The accumulator's arithmetic: a count register under a signed delta (R12, R76).
-/
namespace Sys2Proof.Machine

/-- R12, R76: read as two's complement, a count wraps when a delta is added. The delta is first taken modulo 2^32
(`BitVec.ofInt`) and the sum is taken modulo 2^32 again; the inner reduction is absorbed by the outer one. -/
theorem toInt_addDelta (c : Count) (d : Int) : (addDelta c d).toInt = (c.toInt + d).bmod (2 ^ 32) := by
  calc (addDelta c d).toInt
      = (c.toInt + (BitVec.ofInt 32 d).toInt).bmod (2 ^ 32) := BitVec.toInt_add c _
    _ = (c.toInt + d.bmod (2 ^ 32)).bmod (2 ^ 32) := by rw [BitVec.toInt_ofInt]
    _ = (c.toInt + d).bmod (2 ^ 32) := Int.add_bmod_bmod

/-- R76: one step forward from the greatest count gives the least. -/
theorem addDelta_greatest_forward : addDelta 0x7FFFFFFF#32 1 = 0x80000000#32 := by decide

/-- R76: one step back from the least count gives the greatest. -/
theorem addDelta_least_reverse : addDelta 0x80000000#32 (-1) = 0x7FFFFFFF#32 := by decide

/-- Settles O37: the wrap of the signed value in general, and the two ends of R76. -/
theorem countsWrapInTwosComplement : Obligations.CountsWrapInTwosComplement :=
  ⟨toInt_addDelta, addDelta_greatest_forward, addDelta_least_reverse⟩

end Sys2Proof.Machine

/-!
The CORE's registers apart from its ports: which operations write them, said once, so that what a step keeps of a
register is a question about four kinds of commit.
-/
namespace Sys2Proof.Machine

/-- The registers of R18 to R22: the state without `phase` and without the model's own fields. -/
structure Registers where
  count : Vector Count 8
  lastPos : Vector Position 8
  cc : ChannelCount
  lastSnap : Snapshot

/-- The registers of a state. -/
def State.registers (s : State) : Registers := ⟨s.count, s.lastPos, s.cc, s.lastSnap⟩

/-! ### What writes no register -/

@[simp] theorem tick_registers (s : State) : (tick s).registers = s.registers := rfl
@[simp] theorem setPhase_registers (p : Phase) (s : State) : (setPhase p s).registers = s.registers := rfl
@[simp] theorem record_registers (e : PortEvent) (s : State) : (record e s).registers = s.registers := rfl
@[simp] theorem acceptCommand_registers (w : CommandWord) (s : State) :
    (acceptCommand w s).registers = s.registers := rfl
@[simp] theorem respond_registers (err ok : Bool) (data : Data) (s : State) :
    (respond err ok data s).registers = s.registers := rfl
@[simp] theorem respondIllegal_registers (s : State) : (respondIllegal s).registers = s.registers := rfl
@[simp] theorem resetEvent_registers (s : State) : (resetEvent s).registers = State.reset.registers := rfl

@[simp] theorem offerResponse_registers (r : ResponseWord) (s : State) :
    (offerResponse r s).registers = s.registers := by
  unfold offerResponse
  split <;> rfl

/-! ### What is read from the registers alone -/

theorem countAt_congr {s t : State} (h : t.registers = s.registers) (i : Channel) : t.countAt i = s.countAt i :=
  congrArg (fun r : Registers => r.count[i.val]) h

theorem lastPosAt_congr {s t : State} (h : t.registers = s.registers) (i : Channel) :
    t.lastPosAt i = s.lastPosAt i :=
  congrArg (fun r : Registers => r.lastPos[i.val]) h

theorem cc_congr {s t : State} (h : t.registers = s.registers) : t.cc = s.cc := congrArg Registers.cc h

theorem lastSnap_congr {s t : State} (h : t.registers = s.registers) : t.lastSnap = s.lastSnap :=
  congrArg Registers.lastSnap h

/-! ### The commits -/

theorem decodeCommit_record (d : StepClass → Int) (S : Snapshot) (e : PortEvent) (s : State) :
    decodeCommit d S (record e s) = record e (decodeCommit d S s) := by
  by_cases h : S = s.lastSnap
  · rw [decodeCommit_of_eq d h, decodeCommit_of_eq d (s := record e s) h]
    rfl
  · rw [decodeCommit_of_ne d h, decodeCommit_of_ne d (s := record e s) h]
    rfl

/-- A commit neither reads nor writes the port history. -/
theorem snapCommit_record (op : SnapOp) (S : Snapshot) (e : PortEvent) (s : State) :
    snapCommit op S (record e s) = record e (snapCommit op S s) := by
  cases op with
  | prime => rfl
  | hasChanged => rfl
  | update => exact decodeCommit_record deltaU S e s
  | updateWeighted => exact decodeCommit_record deltaW S e s

/-- The commits that may write a register, each with its command and the state it leaves (R54). -/
inductive Committed (s : State) : Instr → State → Prop where
  | snap (op : SnapOp) (S : Snapshot) : Committed s (snapInstr op) (snapCommit op S s)
  | conn (n : Data) (b : Bool) : Committed s (.init n) (initCommit n b s)
  | cleared : Committed s .resetAll
      (writeLastSnap 0 (writeLastPositions (fun _ => 0) (writeCounts (fun _ => 0) s)))
  | setCount (ch : ChannelIndex) (i : Channel) (v : Count) (h : channelOf ch = some i) :
      Committed s (.setCount ch v) (writeCount i v s)

/-- A commit reads no field but the registers. -/
theorem Committed.of_acceptCommand {w : CommandWord} {s u : State} {i : Instr}
    (h : Committed (acceptCommand w s) i u) : ∃ v, Committed s i v ∧ u.registers = v.registers := by
  cases h with
  | snap op S => exact ⟨_, .snap op S, by simp [acceptCommand, snapCommit_record]⟩
  | conn n b => exact ⟨_, .conn n b, rfl⟩
  | cleared => exact ⟨_, .cleared, rfl⟩
  | setCount ch i v hi => exact ⟨_, .setCount ch i v hi, rfl⟩

/-- A command leaves the registers as they are, or as its commit leaves them. -/
theorem exec_registers {i : Instr} {s t : State} (h : exec i s = .next t) :
    t.registers = s.registers ∨ ∃ u, Committed s i u ∧ t.registers = u.registers := by
  cases executed_of_exec h with
  | snapCommits op S _ => exact .inr ⟨_, .snap op S, by simp [snapCommit_record]⟩
  | connCommits n b _ => exact .inr ⟨_, .conn n b, rfl⟩
  | cleared => exact .inr ⟨_, .cleared, rfl⟩
  | setCount ch k v hk => exact .inr ⟨_, .setCount ch k v hk, rfl⟩
  | _ => exact .inl rfl

/-- `i` is the command that a step without reset runs: the one it accepts, or the one that waits. -/
inductive RunsIn (s : State) : Instr → Prop where
  | accepted (w : CommandWord) (i : Instr) (hp : s.phase = .idle) (hc : s.pins.cmd = some w)
      (hd : decode w = .ok i) : RunsIn s i
  | waitSnap (op : SnapOp) (hp : s.phase = .waitSnap op) : RunsIn s (snapInstr op)
  | waitConn (n : Data) (hp : s.phase = .waitConn n) : RunsIn s (.init n)

/-- A step leaves the registers as they are, resets them, or leaves them as a commit of the command it runs. -/
theorem step_registers {s t : State} (h : step s = .next t) :
    t.registers = s.registers ∨ (s.pins.rst = true ∧ t.registers = State.reset.registers) ∨
      ∃ i u, RunsIn s i ∧ Committed s i u ∧ t.registers = u.registers := by
  cases stepped_of_step h with
  | reset hr => exact .inr (.inl ⟨hr, rfl⟩)
  | quiet => exact .inl rfl
  | command w i u _ hp hc hd he =>
    rcases exec_registers he with hu | ⟨v, hv, hu⟩
    · exact .inl hu
    · obtain ⟨x, hx, hvx⟩ := hv.of_acceptCommand
      exact .inr (.inr ⟨i, x, .accepted w i hp hc hd, hx, hu.trans hvx⟩)
  | illegal => exact .inl rfl
  | waitSnap op _ hp =>
    cases hS : s.pins.snapAck.delivered with
    | none => exact .inl (by simp [waitForSnap_of_undelivered hS])
    | some S => exact .inr (.inr ⟨_, _, .waitSnap op hp, .snap op S, by simp [waitForSnap_of_delivered hS]⟩)
  | waitConn n _ hp =>
    cases hb : s.pins.connAck.delivered with
    | none => exact .inl (by simp [waitForConn_of_undelivered hb])
    | some b => exact .inr (.inr ⟨_, _, .waitConn n hp, .conn n b, by simp [waitForConn_of_delivered hb]⟩)
  | respond r => exact .inl (by simp)

end Sys2Proof.Machine

/-!
Runs (R24, R51, R53): every step keeps a run a run.
-/
namespace Sys2Proof.Machine

/-- A state in `IDLE` begins a run with its own history. -/
theorem inRun_of_idle {s : State} (h : s.phase = .idle) : InRun s.trace s :=
  ⟨[], rfl, rfl, fun hp => absurd h hp⟩

/-- Nothing happens on the ports, and no command begins. -/
theorem InRun.of_trace_eq {start : List PortEvent} {s t : State} (hs : InRun start s) (ht : t.trace = s.trace)
    (hp : t.phase ≠ .idle → s.phase ≠ .idle) : InRun start t := by
  obtain ⟨events, htr, hans, hopen⟩ := hs
  exact ⟨events, ht.trans htr, hans, hopen ∘ hp⟩

/-- A command is accepted, and it makes at most one transport request. -/
theorem InRun.of_accept {start : List PortEvent} {s t : State} {w : CommandWord} (hs : InRun start s)
    (ht : t.trace = .command w :: s.trace ∨ t.trace = .snapRead :: .command w :: s.trace ∨
      t.trace = .connProbe :: .command w :: s.trace) : InRun start t := by
  obtain ⟨events, htr, hans, -⟩ := hs
  rw [htr] at ht
  rcases ht with ht | ht | ht
  · exact ⟨.command w :: events, ht, hans, fun _ => rfl⟩
  · exact ⟨.snapRead :: .command w :: events, ht, hans, fun _ => rfl⟩
  · exact ⟨.connProbe :: .command w :: events, ht, hans, fun _ => rfl⟩

/-- The response of the command in progress is taken, which ends the command. -/
theorem InRun.of_response {start : List PortEvent} {s t : State} {r : ResponseWord} (hs : InRun start s)
    (hbusy : s.phase ≠ .idle) (ht : t.trace = .response r :: s.trace) (hidle : t.phase = .idle) :
    InRun start t := by
  obtain ⟨events, htr, hans, hopen⟩ := hs
  refine ⟨.response r :: events, by rw [ht, htr]; rfl, ?_, fun hp => absurd hidle hp⟩
  simp [responsesAnswerCommands, hopen hbusy, hans]

/-- A step that holds a response word leaves all as it is, or hands the word to the HOST and returns to `IDLE`. -/
theorem offerResponse_cases (r : ResponseWord) (s : State) :
    offerResponse r s = s ∨ offerResponse r s = setPhase .idle (record (.response r) s) := by
  unfold offerResponse
  split
  · exact .inr rfl
  · exact .inl rfl

theorem step_inRun {start : List PortEvent} {s t : State} (hs : InRun start s) (h : step s = .next t) :
    InRun start t := by
  cases stepped_of_step h with
  | reset => exact hs.of_trace_eq rfl (fun hp => absurd rfl hp)
  | quiet => exact hs.of_trace_eq rfl id
  | command w i u _ _ _ _ he => exact hs.of_accept (exec_ports he).2
  | illegal w e => exact hs.of_accept (.inl rfl)
  | waitSnap op _ hp => exact hs.of_trace_eq (waitForSnap_ports op s).1 (fun _ => by simp [hp])
  | waitConn n _ hp => exact hs.of_trace_eq (waitForConn_ports n s).1 (fun _ => by simp [hp])
  | respond r _ hp =>
    rcases offerResponse_cases r s with he | he
    · rw [he]
      exact hs.of_trace_eq rfl id
    · rw [he]
      exact hs.of_response (r := r) (by simp [hp]) rfl rfl

/-- Settles O23: a run is kept by each kind of step, by what the step adds to the port history. -/
theorem everyStepKeepsRun : Obligations.EveryStepKeepsRun :=
  ⟨fun _ => inRun_of_idle, fun _ _ _ => step_inRun⟩

end Sys2Proof.Machine

/-!
The invariant (R21, R50, R51): `cc` is at most 8, and `err = 1` is offered only for a reserved word.
-/
namespace Sys2Proof.Machine

/-! ### Offered responses -/

theorem responseErr_of_respond_eq {ok : Bool} {data : Data} {r : ResponseWord}
    (h : Phase.respond (responseWord false ok data) = .respond r) : responseErr r = false := by
  cases h
  exact responseErr_responseWord false ok data

/-- No command that `exec` runs answers with `err = 1`. -/
theorem exec_responseErr {i : Instr} {s t : State} {r : ResponseWord} (h : exec i s = .next t)
    (hr : t.phase = .respond r) : responseErr r = false := by
  cases executed_of_exec h with
  | snapWaits => cases hr
  | connWaits => cases hr
  | snapCommits op S _ =>
    obtain ⟨-, -, -, ok, data, hp⟩ := snapCommit_frame op S (record .snapRead s)
    exact responseErr_of_respond_eq (hp.symm.trans hr)
  | _ => exact responseErr_of_respond_eq hr

/-- A command that waits in `WAIT_SNAP(op)` answers with `err = 0`. -/
theorem waitForSnap_responseErr {op : SnapOp} {s : State} {r : ResponseWord} (hp : s.phase = .waitSnap op)
    (hr : (waitForSnap op s).phase = .respond r) : responseErr r = false := by
  cases hS : s.pins.snapAck.delivered with
  | none => simp [waitForSnap_of_undelivered hS, hp] at hr
  | some S =>
    obtain ⟨-, -, -, ok, data, hph⟩ := snapCommit_frame op S s
    rw [waitForSnap_of_delivered hS, hph] at hr
    exact responseErr_of_respond_eq hr

/-- An INIT that waits answers with `err = 0`. -/
theorem waitForConn_responseErr {n : Data} {s : State} {r : ResponseWord} (hp : s.phase = .waitConn n)
    (hr : (waitForConn n s).phase = .respond r) : responseErr r = false := by
  cases hb : s.pins.connAck.delivered with
  | none => simp [waitForConn_of_undelivered hb, hp] at hr
  | some b =>
    rw [waitForConn_of_delivered hb] at hr
    exact responseErr_of_respond_eq hr

/-- Where the response offered after a step comes from: it has `err = 0`, it was offered before, or it answers a
reserved word that the step accepts. -/
theorem step_responseErr {s t : State} {r : ResponseWord} (h : step s = .next t) (hr : t.phase = .respond r) :
    responseErr r = false ∨ s.phase = .respond r ∨
      (r = illegalResponse ∧ s.phase = .idle ∧ ∃ w e, s.pins.cmd = some w ∧ decode w = .error e) := by
  cases stepped_of_step h with
  | reset => cases hr
  | quiet => exact .inr (.inl hr)
  | command w i u _ _ _ _ he => exact .inl (exec_responseErr he hr)
  | illegal w e _ hp hc hd =>
    cases hr
    exact .inr (.inr ⟨rfl, hp, w, e, hc, hd⟩)
  | waitSnap op _ hp => exact .inl (waitForSnap_responseErr hp hr)
  | waitConn n _ hp => exact .inl (waitForConn_responseErr hp hr)
  | respond q =>
    rcases offerResponse_cases q s with he | he
    · rw [he] at hr
      exact .inr (.inl hr)
    · rw [he] at hr
      cases hr

/-! ### The bound of `cc` -/

/-- No commit writes a channel count of more than 8 (R21, R59). -/
theorem Committed.cc_le {s u : State} {i : Instr} (h : Committed s i u) (hs : s.cc.toNat ≤ 8) :
    u.cc.toNat ≤ 8 := by
  cases h with
  | snap op S => rwa [(snapCommit_frame op S s).1]
  | conn n b =>
    show (clampCount n).toNat ≤ 8
    rw [clampCount_toNat]
    exact Nat.min_le_right _ _
  | cleared => exact hs
  | setCount => exact hs

theorem step_cc_le {s t : State} (h : step s = .next t) (hs : s.cc.toNat ≤ 8) : t.cc.toNat ≤ 8 := by
  rcases step_registers h with ht | ⟨-, ht⟩ | ⟨i, u, -, hu, ht⟩
  · rwa [cc_congr ht]
  · rw [cc_congr ht]
    decide
  · rw [cc_congr ht]
    exact hu.cc_le hs

/-- Settles O57: the bound of `cc` by the commits, the offered response by where it comes from. -/
theorem everyStepKeepsInvariant : Obligations.EveryStepKeepsInvariant := by
  intro s t ⟨hcc, hlegal⟩ h
  refine ⟨step_cc_le h hcc, fun r hr herr => ?_⟩
  rcases step_responseErr h hr with hfalse | hheld | ⟨hill, -⟩
  · simp [hfalse] at herr
  · exact hlegal r hheld herr
  · exact hill

/-- Settles O56: at reset `cc` is 0 and no response is offered. -/
theorem invariantHoldsAtReset : Obligations.InvariantHoldsAtReset :=
  ⟨by decide, fun _ h => Phase.noConfusion h⟩

end Sys2Proof.Machine

/-!
Positions and the snapshot cache (R23, R103): what establishes `Tracks` and what keeps it.
-/
namespace Sys2Proof.Machine

/-- `Tracks` reads the registers alone. -/
theorem tracks_congr {s t : State} (h : t.registers = s.registers) : Tracks t ↔ Tracks s := by
  simp only [Tracks, active_congr (cc_congr h), lastPosAt_congr h, lastSnap_congr h]

/-! ### Reset -/

@[simp] theorem reset_countAt (i : Channel) : State.reset.countAt i = 0 := resetEvent_countAt State.reset i

@[simp] theorem reset_lastPosAt (i : Channel) : State.reset.lastPosAt i = 0 :=
  resetEvent_lastPosAt State.reset i

/-- Every channel, active or not, has the position that the reset cache shows. -/
theorem reset_lastPosAt_eq_field (i : Channel) :
    State.reset.lastPosAt i = field State.reset.lastSnap i := by
  rw [reset_lastPosAt]
  exact (field_zero i).symm

theorem tracks_reset : Tracks State.reset := fun i _ => reset_lastPosAt_eq_field i

/-! ### Commits -/

theorem primeCommit_lastPosAt (S : Snapshot) (s : State) (i : Channel) :
    (primeCommit S s).lastPosAt i = if s.active i then field S i else s.lastPosAt i := by
  simp [primeCommit]

/-- PRIME loads the cache and the active positions from one snapshot. -/
theorem tracks_primeCommit (S : Snapshot) (s : State) : Tracks (primeCommit S s) :=
  fun i hi => (primeCommit_lastPosAt S s i).trans (if_pos hi)

/-- The lanes load the active positions from the snapshot that the cache has taken. -/
theorem tracks_decodeCommit_of_ne (d : StepClass → Int) {S : Snapshot} {s : State} (h : S ≠ s.lastSnap) :
    Tracks (decodeCommit d S s) := by
  rw [decodeCommit_of_ne d h]
  exact fun i hi => (runLanes_lastPosAt d S (writeLastSnap S s) i).trans (if_pos hi)

/-- The early exit writes nothing, and a commit without it establishes the relation. -/
theorem tracks_decodeCommit (d : StepClass → Int) (S : Snapshot) {s : State} (hs : Tracks s) :
    Tracks (decodeCommit d S s) := by
  by_cases h : S = s.lastSnap
  · rw [decodeCommit_of_eq d h]
    exact hs
  · exact tracks_decodeCommit_of_ne d h

theorem tracks_snapCommit (op : SnapOp) (S : Snapshot) {s : State} (hs : Tracks s) :
    Tracks (snapCommit op S s) := by
  cases op with
  | prime => exact tracks_primeCommit S s
  | hasChanged => exact hs
  | update => exact tracks_decodeCommit deltaU S hs
  | updateWeighted => exact tracks_decodeCommit deltaW S hs

/-- After RESET_ALL every channel, active or not, has the position that the cache shows. -/
theorem cleared_lastPosAt_eq_field (s : State) (i : Channel) :
    (writeLastSnap 0 (writeLastPositions (fun _ => 0) (writeCounts (fun _ => 0) s))).lastPosAt i = field 0 i := by
  rw [field_zero, writeLastSnap_lastPosAt, writeLastPositions_lastPosAt]

/-- A commit that does not raise `cc` keeps the relation: INIT may only make channels inactive. -/
theorem Committed.tracks {s u : State} {i : Instr} (h : Committed s i u) (hs : Tracks s)
    (hcc : u.cc.toNat ≤ s.cc.toNat) : Tracks u := by
  cases h with
  | snap op S => exact tracks_snapCommit op S hs
  | conn n b => exact fun k hk => hs k (active_iff.2 ((active_iff.1 hk).trans_le hcc))
  | cleared => exact fun k _ => cleared_lastPosAt_eq_field s k
  | setCount => exact hs

/-! ### The statements -/

/-- Settles O59: reset and every commit that does not raise `cc` keep the relation. -/
theorem everyStepKeepsTracking : Obligations.EveryStepKeepsTracking := by
  intro s t hs h hcc
  rcases step_registers h with ht | ⟨-, ht⟩ | ⟨i, u, -, hu, ht⟩
  · exact (tracks_congr ht).2 hs
  · exact (tracks_congr ht).2 tracks_reset
  · rw [cc_congr ht] at hcc
    exact (tracks_congr ht).2 (hu.tracks hs hcc)

/-- A command that reads a snapshot, when it is answered at once, ends in its commit. -/
theorem exec_snapInstr_of_delivered {op : SnapOp} {s t : State} {S : Snapshot}
    (hS : s.pins.snapAck.delivered = some S) (h : exec (snapInstr op) s = .next t) :
    t = snapCommit op S (record .snapRead s) := by
  rw [exec_snapInstr, snapRead_of_delivered hS] at h
  cases h
  rfl

/-- Settles O60: from the snapshot commits, and from RESET_ALL's on every channel. -/
theorem samplingEstablishesTracking : Obligations.SamplingEstablishesTracking := by
  refine ⟨fun s t S hS => ⟨fun h => ?_, fun hne h => ?_, fun hne h => ?_⟩, fun s t h i => ?_⟩
  · rw [exec_snapInstr_of_delivered (op := .prime) hS h]
    exact tracks_primeCommit S _
  · rw [exec_snapInstr_of_delivered (op := .update) hS h]
    exact tracks_decodeCommit_of_ne deltaU hne
  · rw [exec_snapInstr_of_delivered (op := .updateWeighted) hS h]
    exact tracks_decodeCommit_of_ne deltaW hne
  · cases h
    exact cleared_lastPosAt_eq_field s i

/-- Settles O1: the channel registers channel by channel, the others by their definition. -/
theorem resetStateHoldsSpecValues : Obligations.ResetStateHoldsSpecValues :=
  ⟨reset_countAt, reset_lastPosAt, rfl, rfl, rfl⟩

/-- Settles O58: all positions and the whole cache are 0. -/
theorem trackingHoldsAtReset : Obligations.TrackingHoldsAtReset :=
  ⟨reset_lastPosAt_eq_field, tracks_reset⟩

end Sys2Proof.Machine

/-!
The whole-machine frames: which commands can change which register, and that an inactive channel is inert.
-/
namespace Sys2Proof.Machine

/-- A decoded command has the opcode of its word (R47, R55). -/
theorem commandOp_of_decode {w : CommandWord} {i : Instr} (h : decode w = .ok i) : commandOp w = opcode i := by
  unfold decode at h
  apply BitVec.eq_of_toNat_eq
  split at h <;> cases h <;> assumption

/-- What a step that changes a register implies, for a register that only the opcodes `ops` write: reset is
asserted, or the command accepted or waiting has one of those opcodes. -/
theorem writer_of_step {α : Type} (reg : Registers → α) (ops : List Nat)
    (frame : ∀ {s u : State} {i : Instr}, Committed s i u → (opcode i).toNat ∉ ops → reg u.registers = reg s.registers)
    {s t : State} (h : step s = .next t) (hne : reg t.registers ≠ reg s.registers) :
    s.pins.rst = true ∨
    (s.phase = .idle ∧ ∃ w, s.pins.cmd = some w ∧ (w.extractLsb' 40 8).toNat ∈ ops) ∨
    (∃ op, s.phase = .waitSnap op ∧ (opcode (snapInstr op)).toNat ∈ ops) ∨
    ∃ n, s.phase = .waitConn n ∧ (opcode (.init n)).toNat ∈ ops := by
  rcases step_registers h with ht | ⟨hr, -⟩ | ⟨i, u, hrun, hu, ht⟩
  · exact absurd (congrArg reg ht) hne
  · exact .inl hr
  · rw [ht] at hne
    have hop : (opcode i).toNat ∈ ops := by_contra fun hout => hne (frame hu hout)
    cases hrun with
    | accepted w _ hp hc hd =>
      rw [← commandOp_of_decode hd] at hop
      exact .inr (.inl ⟨hp, w, hc, hop⟩)
    | waitSnap op hp => exact .inr (.inr (.inl ⟨op, hp, hop⟩))
    | waitConn n hp => exact .inr (.inr (.inr ⟨n, hp, hop⟩))

/-! ### What each commit leaves unchanged -/

/-- R18, C6: the counts are written by RESET_ALL, UPDATE, UPDATE_WEIGHTED and SET_COUNT. -/
theorem Committed.count_eq {s u : State} {i : Instr} (h : Committed s i u)
    (hop : (opcode i).toNat ∉ [0x02, 0x05, 0x06, 0x08]) : u.count = s.count := by
  cases h with
  | snap op S =>
    cases op with
    | prime => rfl
    | hasChanged => rfl
    | update => simp [snapInstr, opcode] at hop
    | updateWeighted => simp [snapInstr, opcode] at hop
  | conn => rfl
  | cleared => simp [opcode] at hop
  | setCount => simp [opcode] at hop

/-- R19, R22: the last positions and the cache are written by RESET_ALL, PRIME, UPDATE and UPDATE_WEIGHTED. -/
theorem Committed.lastPos_lastSnap_eq {s u : State} {i : Instr} (h : Committed s i u)
    (hop : (opcode i).toNat ∉ [0x02, 0x03, 0x05, 0x06]) : u.lastPos = s.lastPos ∧ u.lastSnap = s.lastSnap := by
  cases h with
  | snap op S =>
    cases op with
    | prime => simp [snapInstr, opcode] at hop
    | hasChanged => exact ⟨rfl, rfl⟩
    | update => simp [snapInstr, opcode] at hop
    | updateWeighted => simp [snapInstr, opcode] at hop
  | conn => exact ⟨rfl, rfl⟩
  | cleared => simp [opcode] at hop
  | setCount => exact ⟨rfl, rfl⟩

/-- R21: `cc` is written by INIT. -/
theorem Committed.cc_eq {s u : State} {i : Instr} (h : Committed s i u) (hop : (opcode i).toNat ∉ [0x01]) :
    u.cc = s.cc := by
  cases h with
  | snap op S => exact (snapCommit_frame op S s).1
  | conn => simp [opcode] at hop
  | cleared => rfl
  | setCount => rfl

/-! ### The whole-machine rules -/

/-- Settles O51, by the commits that write the counts. -/
theorem onlyCountWritersChangeCounts : Obligations.OnlyCountWritersChangeCounts := by
  intro s t h hne
  rcases writer_of_step Registers.count _ Committed.count_eq h hne with hr | hc | ⟨op, hp, hop⟩ | ⟨n, -, hn⟩
  · exact .inl hr
  · exact .inr (.inl hc)
  · cases op with
    | prime => simp [snapInstr, opcode] at hop
    | hasChanged => simp [snapInstr, opcode] at hop
    | update => exact .inr (.inr (.inl hp))
    | updateWeighted => exact .inr (.inr (.inr hp))
  · simp [opcode] at hn

/-- `writer_of_step` for a register that RESET_ALL, PRIME, UPDATE and UPDATE_WEIGHTED write. -/
theorem sampler_of_step {α : Type} (reg : Registers → α)
    (frame : ∀ {s u : State} {i : Instr}, Committed s i u → (opcode i).toNat ∉ [0x02, 0x03, 0x05, 0x06] →
      reg u.registers = reg s.registers)
    {s t : State} (h : step s = .next t) (hne : reg t.registers ≠ reg s.registers) :
    s.pins.rst = true ∨
    (s.phase = .idle ∧ ∃ w, s.pins.cmd = some w ∧ (w.extractLsb' 40 8).toNat ∈ [0x02, 0x03, 0x05, 0x06]) ∨
    s.phase = .waitSnap .prime ∨ s.phase = .waitSnap .update ∨ s.phase = .waitSnap .updateWeighted := by
  rcases writer_of_step reg _ frame h hne with hr | hc | ⟨op, hp, hop⟩ | ⟨n, -, hn⟩
  · exact .inl hr
  · exact .inr (.inl hc)
  · cases op with
    | prime => exact .inr (.inr (.inl hp))
    | hasChanged => simp [snapInstr, opcode] at hop
    | update => exact .inr (.inr (.inr (.inl hp)))
    | updateWeighted => exact .inr (.inr (.inr (.inr hp)))
  · simp [opcode] at hn

/-- Settles O52, by the commits that write the last positions. -/
theorem onlyPositionWritersChangePositions : Obligations.OnlyPositionWritersChangePositions :=
  fun _ _ => sampler_of_step Registers.lastPos fun hu hop => (hu.lastPos_lastSnap_eq hop).1

/-- Settles O54, by the commits that write the cache. -/
theorem onlyCacheWritersChangeSnapshotCache : Obligations.OnlyCacheWritersChangeSnapshotCache :=
  fun _ _ => sampler_of_step Registers.lastSnap fun hu hop => (hu.lastPos_lastSnap_eq hop).2

/-- Settles O53, by INIT's commit being the only one that writes `cc`. -/
theorem onlyInitChangesChannelCount : Obligations.OnlyInitChangesChannelCount := by
  intro s t h hne
  rcases writer_of_step Registers.cc _ Committed.cc_eq h hne with hr | ⟨hp, w, hc, hw⟩ | ⟨op, -, hop⟩ | ⟨n, hp, -⟩
  · exact .inl hr
  · exact .inr (.inl ⟨hp, w, hc, List.mem_singleton.1 hw⟩)
  · cases op <;> simp [snapInstr, opcode] at hop
  · exact .inr (.inr ⟨n, hp⟩)

/-! ### Inactive channels -/

/-- An inactive lane does not run (R71). -/
theorem decodeCommit_inactive (d : StepClass → Int) (S : Snapshot) {s : State} {i : Channel}
    (hi : s.active i = false) :
    (decodeCommit d S s).countAt i = s.countAt i ∧ (decodeCommit d S s).lastPosAt i = s.lastPosAt i := by
  by_cases h : S = s.lastSnap
  · rw [decodeCommit_of_eq d h]
    exact ⟨rfl, rfl⟩
  · rw [decodeCommit_of_ne d h]
    simp [runLanes_countAt, runLanes_lastPosAt, hi]

theorem snapCommit_inactive (op : SnapOp) (S : Snapshot) {s : State} {i : Channel} (hi : s.active i = false) :
    (snapCommit op S s).countAt i = s.countAt i ∧ (snapCommit op S s).lastPosAt i = s.lastPosAt i := by
  cases op with
  | prime => exact ⟨rfl, by simp [snapCommit, primeCommit_lastPosAt, hi]⟩
  | hasChanged => exact ⟨rfl, rfl⟩
  | update => exact decodeCommit_inactive deltaU S hi
  | updateWeighted => exact decodeCommit_inactive deltaW S hi

/-- Settles O55: the snapshot commits keep an inactive channel, and INIT's writes no channel. -/
theorem inactiveChannelsAreInert : Obligations.InactiveChannelsAreInert := by
  intro s t i c hi h hreset hset
  rcases exec_registers h with ht | ⟨u, hu, ht⟩
  · exact ⟨countAt_congr ht i, lastPosAt_congr ht i⟩
  · rw [countAt_congr ht, lastPosAt_congr ht]
    cases hu with
    | snap op S => exact snapCommit_inactive op S hi
    | conn => exact ⟨rfl, rfl⟩
    | cleared => exact absurd rfl hreset
    | setCount ch k v => exact absurd rfl (hset ch v)

end Sys2Proof.Machine

/-!
The snapshot's layout (R32, R37, R38): the bits of a channel's field, and of each of the two bytes.
-/
namespace Sys2Proof.Machine

/-- R38: the field as a number. -/
theorem field_toNat (S : Snapshot) (i : Channel) : (field S i).toNat = S.toNat / 4 ^ i.val % 4 := by
  have hmask : ∀ n : Nat, n &&& 3 = n % 4 := fun n => Nat.and_two_pow_sub_one_eq_mod n 2
  simp [field, hmask, Nat.shiftRight_eq_div_pow, pow_mul]

/-- R37: the field as two bits of the snapshot. -/
theorem field_eq_extractLsb' (S : Snapshot) (i : Channel) : field S i = S.extractLsb' (2 * i.val) 2 := by
  apply BitVec.eq_of_toNat_eq
  rw [field_toNat, BitVec.extractLsb'_toNat, Nat.shiftRight_eq_div_pow, pow_mul]
  rfl

/-- Settles O33: the field by its number, and from that by its bits. -/
theorem fieldIsTwoSnapshotBits : Obligations.FieldIsTwoSnapshotBits :=
  fun S i => ⟨field_eq_extractLsb' S i, field_toNat S i⟩

/-- R32: the snapshot is its two bytes in the order in which they arrive. -/
theorem snapshotOfBytes_eq_append (first second : BitVec 8) : snapshotOfBytes first second = first ++ second := by
  rw [snapshotOfBytes, BitVec.append_def, BitVec.shiftLeftZeroExtend_eq, BitVec.setWidth'_eq]

theorem snapshotOfBytes_extractLsb'_second {k n : Nat} (h : k + n ≤ 8) (first second : BitVec 8) :
    (snapshotOfBytes first second).extractLsb' k n = second.extractLsb' k n := by
  rw [snapshotOfBytes_eq_append]
  exact BitVec.extractLsb'_append_eq_of_add_le h

theorem snapshotOfBytes_extractLsb'_first {k n : Nat} (h : 8 ≤ k) (first second : BitVec 8) :
    (snapshotOfBytes first second).extractLsb' k n = first.extractLsb' (k - 8) n := by
  rw [snapshotOfBytes_eq_append]
  exact BitVec.extractLsb'_append_eq_of_le h

/-- Settles O34: every field lies within one of the two bytes. -/
theorem snapshotBytesArriveMsbFirst : Obligations.SnapshotBytesArriveMsbFirst := by
  intro first second
  refine ⟨?_, ?_, fun i => ?_⟩
  · rw [snapshotOfBytes_extractLsb'_first le_rfl]
    exact BitVec.extractLsb'_eq_self
  · rw [snapshotOfBytes_extractLsb'_second le_rfl]
    exact BitVec.extractLsb'_eq_self
  · rw [field_eq_extractLsb']
    split
    case isTrue h => exact snapshotOfBytes_extractLsb'_second (by omega) first second
    case isFalse h => rw [snapshotOfBytes_extractLsb'_first (by omega), Nat.mul_sub]

end Sys2Proof.Machine

/-!
The transport's requests and its answers (R35, R36, R53): what a waiting command does, and that the time of the answer
makes no difference.
-/
namespace Sys2Proof.Machine

/-! ### The step in each kind of phase that has to do with the transport -/

/-- In `IDLE` an offered word is accepted and its command is run. -/
theorem step_of_command {s t : State} {w : CommandWord} {i : Instr} (hr : s.pins.rst = false)
    (hp : s.phase = .idle) (hc : s.pins.cmd = some w) (hd : decode w = .ok i)
    (he : exec i (acceptCommand w s) = .next t) : step s = .next (tick t) := by
  simp [step, hr, hp, hc, hd, he, tickOutcome]

/-- In `IDLE` a reserved word is accepted and answered. -/
theorem step_of_reserved {s : State} {w : CommandWord} {e : DecodeError} (hr : s.pins.rst = false)
    (hp : s.phase = .idle) (hc : s.pins.cmd = some w) (hd : decode w = .error e) :
    step s = .next (tick (respondIllegal (acceptCommand w s))) := by
  simp [step, hr, hp, hc, hd]

theorem step_of_waitSnap {s : State} {op : SnapOp} (hr : s.pins.rst = false) (hp : s.phase = .waitSnap op) :
    step s = .next (tick (waitForSnap op s)) := by
  simp [step, hr, hp]

theorem step_of_waitConn {s : State} {n : Data} (hr : s.pins.rst = false) (hp : s.phase = .waitConn n) :
    step s = .next (tick (waitForConn n s)) := by
  simp [step, hr, hp]

/-- R35: without an answer `WAIT_SNAP(op)` only uses up its inputs. -/
theorem step_of_waitSnap_undelivered {s : State} {op : SnapOp} (hr : s.pins.rst = false)
    (hp : s.phase = .waitSnap op) (hd : s.pins.snapAck.delivered = none) :
    step s = .next (setInputs s.inputs.tail s) := by
  rw [step_of_waitSnap hr hp, waitForSnap_of_undelivered hd, tick_eq]

/-- R35: without an answer `WAIT_CONN(n)` only uses up its inputs. -/
theorem step_of_waitConn_undelivered {s : State} {n : Data} (hr : s.pins.rst = false)
    (hp : s.phase = .waitConn n) (hd : s.pins.connAck.delivered = none) :
    step s = .next (setInputs s.inputs.tail s) := by
  rw [step_of_waitConn hr hp, waitForConn_of_undelivered hd, tick_eq]

/-- Settles O17: the request is held by the phase, and the step without an answer leaves the phase as it is. -/
theorem waitingCommandHoldsUntilAnswer : Obligations.WaitingCommandHoldsUntilAnswer := by
  intro s hr
  refine ⟨fun op hp hd => ⟨?_, step_of_waitSnap_undelivered hr hp hd⟩,
    fun n hp hd => ⟨?_, step_of_waitConn_undelivered hr hp hd⟩⟩
  · simp [snapReq, hr, hp]
  · simp [connReq, hr, hp]

/-! ### An environment that does nothing more -/

theorem tick_of_inputs_nil {s : State} (h : s.inputs = []) : tick s = s := by
  cases s
  simp_all [tick]

/-- An offered response that the HOST does not take is held. -/
theorem offerResponse_of_not_ready {r : ResponseWord} {s : State} (h : s.pins.rspReady = false) :
    offerResponse r s = s := by
  simp [offerResponse, h]

/-- Settles O26: on quiet pins no phase has anything to do, and there are no inputs to use up. -/
theorem nothingHappensWithoutInputs : Obligations.NothingHappensWithoutInputs := by
  intro s hs
  have hq : s.pins = Pins.quiet := pins_of_inputs_nil hs
  have htick : tick s = s := tick_of_inputs_nil hs
  obtain ⟨t, ht, hc⟩ := step_cases s
  rw [ht]
  cases hc with
  | reset h => simp [hq] at h
  | quiet => rw [htick]
  | command w i u _ _ hc => simp [hq] at hc
  | illegal w e _ _ hc => simp [hq] at hc
  | waitSnap op => rw [waitForSnap_of_undelivered (by simp [hq]), htick]
  | waitConn n => rw [waitForConn_of_undelivered (by simp [hq]), htick]
  | respond r => rw [offerResponse_of_not_ready (by simp [hq]), htick]

/-! ### The requests of each command -/

/-- Settles O49: the request is recorded before the command waits or commits, and nothing else is recorded. -/
theorem commandsMakeExactlyTheirTransportRequests : Obligations.CommandsMakeExactlyTheirTransportRequests := by
  refine ⟨fun i s t h => ?_, fun s t h hr => ⟨fun hwait => ?_, fun w e hp hc hd => ?_⟩⟩
  · cases executed_of_exec h with
    | snapWaits op => cases op <;> rfl
    | snapCommits op S =>
      obtain ⟨-, -, htrace, -⟩ := snapCommit_frame op S (record .snapRead s)
      rw [htrace]
      cases op <;> rfl
    | _ => rfl
  · rcases hwait with ⟨op, hp⟩ | ⟨n, hp⟩
    · cases (step_of_waitSnap hr hp).symm.trans h
      exact (waitForSnap_ports op s).1
    · cases (step_of_waitConn hr hp).symm.trans h
      exact (waitForConn_ports n s).1
  · cases (step_of_reserved hr hp hc hd).symm.trans h
    rfl

/-! ### A delayed answer -/

/-- A run through pins on which `s` only uses up its inputs: `s` is still there when they are used up. -/
theorem run_of_held {s : State} {waits : List Pins} (k : Nat) (rest : List Pins)
    (hold : ∀ q ∈ waits, ∀ l, step (setInputs (q :: l) s) = .next (setInputs l s)) :
    Host.Core.run Sys2Proof.core (waits.length + k) (setInputs (waits ++ rest) s)
      = Host.Core.run Sys2Proof.core k (setInputs rest s) := by
  induction waits with
  | nil => simp
  | cons q qs ih =>
    obtain ⟨hq, hqs⟩ := List.forall_mem_cons.1 hold
    rw [List.length_cons, Nat.add_right_comm, List.cons_append, core_run_of_next _ (hq _), ih hqs]

/-- A command that waits in `held` from the step that accepts it to the step that answers it. -/
theorem run_of_delayed {s held t : State} {p₁ : Pins} {waits rest : List Pins}
    (haccept : step s = .next (setInputs (waits ++ p₁ :: rest) held))
    (hold : ∀ q ∈ waits, ∀ l, step (setInputs (q :: l) held) = .next (setInputs l held))
    (hanswer : step (setInputs (p₁ :: rest) held) = .next t) :
    Host.Core.run Sys2Proof.core (waits.length + 2) s = .next t := by
  rw [core_run_of_next _ haccept, run_of_held 1 (p₁ :: rest) hold, core_run_of_next 0 hanswer]
  rfl

/-- A snapshot command that is not answered at once waits with its request recorded. -/
theorem step_snapInstr_of_undelivered {s : State} {w : CommandWord} {op : SnapOp} (hr : s.pins.rst = false)
    (hp : s.phase = .idle) (hc : s.pins.cmd = some w) (hd : decode w = .ok (snapInstr op))
    (hnone : s.pins.snapAck.delivered = none) :
    step s = .next (setInputs s.inputs.tail (setPhase (.waitSnap op) (record .snapRead (acceptCommand w s)))) :=
  step_of_command hr hp hc hd (by rw [exec_snapInstr, snapRead_of_undelivered (s := acceptCommand w s) hnone])

/-- An INIT that is not answered at once waits with its request recorded. -/
theorem step_init_of_undelivered {s : State} {w : CommandWord} {n : Data} (hr : s.pins.rst = false)
    (hp : s.phase = .idle) (hc : s.pins.cmd = some w) (hd : decode w = .ok (.init n))
    (hnone : s.pins.connAck.delivered = none) :
    step s = .next (setInputs s.inputs.tail (setPhase (.waitConn n) (record .connProbe (acceptCommand w s)))) :=
  step_of_command hr hp hc hd (by rw [exec, execInit, probeConnected_of_undelivered (s := acceptCommand w s) hnone])

theorem tick_setInputs_cons (p : Pins) (rest : List Pins) (s : State) :
    tick (setInputs (p :: rest) s) = setInputs rest s := rfl

/-- The answer to a waiting snapshot command commits it as if it had not waited. -/
theorem step_waitSnap_of_delivered {s : State} {op : SnapOp} {S : Snapshot} {p : Pins} (rest : List Pins)
    (hr : p.rst = false) (hS : p.snapAck.delivered = some S) :
    step (setInputs (p :: rest) (setPhase (.waitSnap op) s)) = .next (setInputs rest (snapCommit op S s)) := by
  rw [step_of_waitSnap (s := setInputs (p :: rest) (setPhase (.waitSnap op) s)) hr rfl,
    waitForSnap_of_delivered (s := setInputs (p :: rest) (setPhase (.waitSnap op) s)) hS, snapCommit_setInputs,
    snapCommit_setPhase, tick_setInputs_cons]

/-- The answer to a waiting INIT commits it as if it had not waited. -/
theorem step_waitConn_of_delivered {s : State} {n : Data} {b : Bool} {p : Pins} (rest : List Pins)
    (hr : p.rst = false) (hb : p.connAck.delivered = some b) :
    step (setInputs (p :: rest) (setPhase (.waitConn n) s)) = .next (setInputs rest (initCommit n b s)) := by
  rw [step_of_waitConn (s := setInputs (p :: rest) (setPhase (.waitConn n) s)) hr rfl,
    waitForConn_of_delivered (s := setInputs (p :: rest) (setPhase (.waitConn n) s)) hb, initCommit_setInputs,
    initCommit_setPhase, tick_setInputs_cons]

/-- Settles O22: the commit that ends the wait is the one of the immediate answer, since a commit reads neither the
inputs nor the phase. -/
theorem delayedAnswerEqualsImmediateAnswer : Obligations.DelayedAnswerEqualsImmediateAnswer := by
  intro s u w p₀ p₁ waits rest hp hin hr₀ hc₀ hr₁ hrw
  have hpins : s.pins = p₀ := pins_of_inputs_cons hin
  have htail : s.inputs.tail = waits ++ p₁ :: rest := by rw [hin, List.tail_cons]
  rw [← hpins] at hr₀ hc₀
  refine ⟨fun op S hd hnone hnw hS hu => ?_, fun n b hd hnone hnw hb hu => ?_⟩
  · rw [← hpins] at hnone
    have haccept := step_snapInstr_of_undelivered hr₀ hp hc₀ hd hnone
    rw [htail] at haccept
    refine run_of_delayed haccept
      (fun q hq l => step_of_waitSnap_undelivered (op := op) (hrw q hq) rfl (hnw q hq)) ?_
    rw [exec_snapInstr_of_delivered (s := setInputs [p₁] (acceptCommand w s)) hS hu,
      step_waitSnap_of_delivered rest hr₁ hS, record_setInputs, snapCommit_setInputs, setInputs_setInputs]
  · rw [← hpins] at hnone
    have haccept := step_init_of_undelivered hr₀ hp hc₀ hd hnone
    rw [htail] at haccept
    refine run_of_delayed haccept
      (fun q hq l => step_of_waitConn_undelivered (n := n) (hrw q hq) rfl (hnw q hq)) ?_
    rw [exec, execInit, probeConnected_of_delivered (s := setInputs [p₁] (acceptCommand w s)) hb] at hu
    cases hu
    exact step_waitConn_of_delivered rest hr₁ hb

end Sys2Proof.Machine

/-!
The decoder and the encoder (R47 to R50, R55, R56): when a word decodes to a command, in terms of its three fields.
-/
namespace Sys2Proof.Machine

/-! ### Opcodes and unused fields -/

theorem opcodeAssigned_iff {op : Opcode} : opcodeAssigned op = true ↔ 0x01 ≤ op.toNat ∧ op.toNat ≤ 0x0A := by
  simp [opcodeAssigned]

theorem opcodeAssigned_opcode (i : Instr) : opcodeAssigned (opcode i) = true := by
  cases i <;> rfl

/-- R56: the assembler writes zero where the command has no channel operand. -/
theorem chField_eq_zero {i : Instr} (h : opcodeUsesCh (opcode i) = false) : chField i = 0#8 := by
  cases i with
  | getCount ch => cases h
  | setCount ch value => cases h
  | getLastPosition ch => cases h
  | _ => rfl

/-- R56: the assembler writes zero where the command has no data operand. -/
theorem dataField_eq_zero {i : Instr} (h : opcodeUsesData (opcode i) = false) : dataField i = 0#32 := by
  cases i with
  | init n => cases h
  | setCount ch value => cases h
  | _ => rfl

/-! ### What a word decodes to -/

/-- The fields of a word that `i` uses (R48, R49) are those of `i`. -/
def FieldsMatch (w : CommandWord) (i : Instr) : Prop :=
  commandOp w = opcode i ∧
    (opcodeUsesCh (opcode i) = true → commandCh w = chField i) ∧
    (opcodeUsesData (opcode i) = true → commandData w = dataField i)

/-- The decoder takes the fields that the command uses from the word. -/
theorem fieldsMatch_of_decode {w : CommandWord} {i : Instr} (h : decode w = .ok i) : FieldsMatch w i := by
  refine ⟨commandOp_of_decode h, ?_⟩
  unfold decode at h
  split at h <;> cases h <;> simp [opcode, opcodeUsesCh, opcodeUsesData, chField, dataField]

/-- The opcode chooses the command, and its operands are read from the fields it uses. -/
theorem decode_of_fieldsMatch {w : CommandWord} {i : Instr} (h : FieldsMatch w i) : decode w = .ok i := by
  obtain ⟨hop, hch, hdata⟩ := h
  rw [decode, hop]
  cases i with
  | init n => rw [hdata rfl]; rfl
  | getCount ch => rw [hch rfl]; rfl
  | setCount ch value => rw [hch rfl, hdata rfl]; rfl
  | getLastPosition ch => rw [hch rfl]; rfl
  | _ => rfl

/-- A word decodes to a command exactly when the fields that the command uses are the command's. -/
theorem decode_eq_ok_iff {w : CommandWord} {i : Instr} : decode w = .ok i ↔ FieldsMatch w i :=
  ⟨fieldsMatch_of_decode, decode_of_fieldsMatch⟩

/-- A word decodes to no command exactly when its opcode is reserved (R50). -/
theorem decode_eq_error_iff {w : CommandWord} {e : DecodeError} :
    decode w = .error e ↔ opcodeAssigned (commandOp w) = false ∧ e = .reservedOpcode (commandOp w) := by
  have herror : ∀ {e}, decode w = .error e →
      opcodeAssigned (commandOp w) = false ∧ e = .reservedOpcode (commandOp w) := by
    intro e h
    unfold decode at h
    split at h <;> cases h
    refine ⟨?_, rfl⟩
    rw [← Bool.not_eq_true, opcodeAssigned_iff]
    grind
  refine ⟨herror, fun ⟨hop, he⟩ => ?_⟩
  cases h : decode w with
  | ok i =>
    rw [commandOp_of_decode h, opcodeAssigned_opcode] at hop
    cases hop
  | error e' => rw [he, (herror h).2]

theorem exists_decode_iff {w : CommandWord} :
    (∃ i, decode w = .ok i) ↔ opcodeAssigned (commandOp w) = true := by
  constructor
  · rintro ⟨i, h⟩
    rw [commandOp_of_decode h]
    exact opcodeAssigned_opcode i
  · intro hop
    cases h : decode w with
    | ok i => exact ⟨i, rfl⟩
    | error e => simp [(decode_eq_error_iff.1 h).1] at hop

/-! ### The statements -/

/-- Settles O5: the word of a command has the command's fields. -/
theorem decodeEncodeGivesCommandBack : Obligations.DecodeEncodeGivesCommandBack :=
  fun i => decode_eq_ok_iff.2 ⟨commandOp_encode i, fun _ => commandCh_encode i, fun _ => commandData_encode i⟩

theorem wordWellFormed_iff {w : CommandWord} :
    wordWellFormed w = true ↔ opcodeAssigned (commandOp w) = true ∧
      (opcodeUsesCh (commandOp w) = false → commandCh w = 0#8) ∧
      (opcodeUsesData (commandOp w) = false → commandData w = 0#32) := by
  simp only [wordWellFormed, commandOp, commandCh, commandData, Bool.and_eq_true, Bool.or_eq_true, beq_iff_eq,
    ← Bool.not_eq_true, ← or_iff_not_imp_left, and_assoc]

/-- A well-formed word has the fields of the command it decodes to: a used one is decoded, an unused one is zero in
both. -/
theorem encode_of_decode {w : CommandWord} {i : Instr} (hw : wordWellFormed w = true) (h : decode w = .ok i) :
    encode i = w := by
  obtain ⟨hop, hch, hdata⟩ := decode_eq_ok_iff.1 h
  obtain ⟨-, hch₀, hdata₀⟩ := wordWellFormed_iff.1 hw
  rw [hop] at hch₀ hdata₀
  have hc : commandCh w = chField i := by
    cases hu : opcodeUsesCh (opcode i) with
    | true => exact hch hu
    | false => rw [hch₀ hu, chField_eq_zero hu]
  have hd : commandData w = dataField i := by
    cases hu : opcodeUsesData (opcode i) with
    | true => exact hdata hu
    | false => rw [hdata₀ hu, dataField_eq_zero hu]
  rw [encode, ← hop, ← hc, ← hd, packFields_fields]

/-- Settles O6: the word's opcode is assigned, so it decodes, and its fields are those of the command. -/
theorem encodeDecodeGivesWellFormedWordBack : Obligations.EncodeDecodeGivesWellFormedWordBack := by
  intro w hw
  obtain ⟨i, hi⟩ := exists_decode_iff.2 (wordWellFormed_iff.1 hw).1
  exact ⟨i, hi, encode_of_decode hw hi⟩

/-- Settles O7: a word is a command when its opcode is assigned, and then it is one of that opcode. -/
theorem decodeAcceptsExactlyAssignedOpcodes : Obligations.DecodeAcceptsExactlyAssignedOpcodes :=
  fun _ => ⟨exists_decode_iff.trans opcodeAssigned_iff, fun _ h => (commandOp_of_decode h).symm⟩

/-- Settles O8: both outcomes of `decode` are characterised by the opcode and the used fields alone. -/
theorem decodeReadsOnlyUsedFields : Obligations.DecodeReadsOnlyUsedFields := by
  intro w v (hop : commandOp w = commandOp v) (hch : opcodeUsesCh (commandOp w) = true → commandCh w = commandCh v)
    (hdata : opcodeUsesData (commandOp w) = true → commandData w = commandData v)
  symm
  cases h : decode w with
  | ok i =>
    obtain ⟨hopi, hchi, hdatai⟩ := decode_eq_ok_iff.1 h
    rw [hopi] at hop hch hdata
    exact decode_eq_ok_iff.2
      ⟨hop.symm, fun hu => (hch hu).symm.trans (hchi hu), fun hu => (hdata hu).symm.trans (hdatai hu)⟩
  | error e =>
    rw [decode_eq_error_iff, hop] at h
    exact decode_eq_error_iff.2 h

/-- Settles O9: each word is closed, so its fields are read off. -/
theorem decodeReadsSampleWords : Obligations.DecodeReadsSampleWords :=
  ⟨rfl, rfl, rfl, rfl, rfl, rfl, rfl, rfl⟩

/-- A response word is its three fields, each of which stands once (R51). -/
theorem responseWord_fields (r : ResponseWord) :
    responseWord (responseErr r) (responseOk r) (responseData r) = r := by
  ext k hk
  simp [responseErr, responseOk, responseData, responseWord]
  grind

/-- Settles O10: reading after building, and building after reading. -/
theorem responseWordIsItsThreeFields : Obligations.ResponseWordIsItsThreeFields :=
  ⟨fun err ok data => ⟨responseErr_responseWord err ok data, responseOk_responseWord err ok data,
    responseData_responseWord err ok data⟩, responseWord_fields⟩

/-- Settles O11: by the definition of the expansion. -/
theorem pseudoCommandsExpandToCommands : Obligations.PseudoCommandsExpandToCommands :=
  ⟨fun _ => rfl, fun _ => rfl⟩

end Sys2Proof.Machine

/-!
The command port and the response port (R46, R50, R53): what a step does with an offered word and with an offered
response, and that the two balance.
-/
namespace Sys2Proof.Machine

/-! ### The step under reset and in the phase that holds a response -/

theorem step_of_reset {s : State} (hr : s.pins.rst = true) : step s = .next (tick (resetEvent s)) := by
  simp [step, hr]

theorem step_of_respond {s : State} {r : ResponseWord} (hr : s.pins.rst = false) (hp : s.phase = .respond r) :
    step s = .next (tick (offerResponse r s)) := by
  simp [step, hr, hp]

/-- An offered response that the HOST takes ends its command. -/
theorem offerResponse_of_ready {r : ResponseWord} {s : State} (h : s.pins.rspReady = true) :
    offerResponse r s = setPhase .idle (record (.response r) s) := by
  simp [offerResponse, h]

/-! ### The output ports -/

theorem cmdReady_iff {s : State} : cmdReady s = true ↔ s.phase = .idle ∧ s.pins.rst = false := by
  simp [cmdReady]

theorem rspOffered_eq_some_iff {s : State} {r : ResponseWord} :
    rspOffered s = some r ↔ s.phase = .respond r ∧ s.pins.rst = false := by
  cases hr : s.pins.rst <;> cases hp : s.phase <;> simp [rspOffered, hr, hp]

theorem snapReq_iff {s : State} : snapReq s = true ↔ (∃ op, s.phase = .waitSnap op) ∧ s.pins.rst = false := by
  cases hp : s.phase <;> simp [snapReq, hp]

theorem connReq_iff {s : State} : connReq s = true ↔ (∃ n, s.phase = .waitConn n) ∧ s.pins.rst = false := by
  cases hp : s.phase <;> simp [connReq, hp]

/-- Settles O16, port by port. -/
theorem outputPortsFollowPhase : Obligations.OutputPortsFollowPhase :=
  fun _ => ⟨cmdReady_iff, fun _ => rspOffered_eq_some_iff, snapReq_iff, connReq_iff⟩

/-- Settles O18: the word is offered in its phase, and the step does what `rsp_ready` says. -/
theorem responseIsHeldUntilTaken : Obligations.ResponseIsHeldUntilTaken := by
  intro s r hr hp
  refine ⟨rspOffered_eq_some_iff.2 ⟨hp, hr⟩, ?_, fun hready => ?_, fun hready => ?_⟩
  · simp [cmdReady, hp]
  · rw [step_of_respond hr hp, offerResponse_of_not_ready hready, tick_eq]
  · rw [step_of_respond hr hp, offerResponse_of_ready hready]
    rfl

/-! ### Accepted words -/

/-- In `IDLE` the command of the offered word runs, after its acceptance is recorded. -/
theorem step_runs_command {s : State} {w : CommandWord} {i : Instr} (hr : s.pins.rst = false)
    (hp : s.phase = .idle) (hc : s.pins.cmd = some w) (hd : decode w = .ok i) :
    ∃ t, exec i (acceptCommand w s) = .next t ∧ step s = .next (setInputs s.inputs.tail t) := by
  obtain ⟨t, ht, -⟩ := exec_cases i (acceptCommand w s)
  have hinputs : t.inputs = s.inputs := exec_inputs (s := acceptCommand w s) ht
  exact ⟨t, ht, by rw [step_of_command hr hp hc hd ht, tick_eq, hinputs]⟩

/-- Settles O12, by `exec` having a next state that keeps the inputs. -/
theorem stepRunsDecodedCommand : Obligations.StepRunsDecodedCommand :=
  fun _ _ _ => step_runs_command

theorem decode_of_decodeTableWord {nbits w : Nat} {i : Instr} (h : decodeTableWord nbits w = some i) :
    decode (tableWord nbits w) = .ok i := by
  unfold decodeTableWord at h
  split at h <;> cases h
  assumption

/-- Settles O13: `withFetchWord` makes a state in which the table word is offered and may be accepted. -/
theorem stepRunsFetchedTableWord : Obligations.StepRunsFetchedTableWord :=
  fun s nbits w _ h =>
    step_runs_command (s := s.withFetchWord nbits w) rfl rfl rfl (decode_of_decodeTableWord h)

/-- Settles O14: a reserved opcode is not assigned, so the word decodes to an error. -/
theorem reservedOpcodeIsAnsweredIllegal : Obligations.ReservedOpcodeIsAnsweredIllegal := by
  intro s w hr hp hc (hop : (commandOp w).toNat = 0x00 ∨ 0x0B ≤ (commandOp w).toNat)
  have hreserved : opcodeAssigned (commandOp w) = false := by
    rw [← Bool.not_eq_true, opcodeAssigned_iff]
    omega
  have hd : decode w = .error (.reservedOpcode (commandOp w)) := decode_eq_error_iff.2 ⟨hreserved, rfl⟩
  refine ⟨fun i h => ?_, ?_⟩
  · rw [hd] at h
    cases h
  · rw [step_of_reserved hr hp hc hd]
    rfl

/-! ### The command port while a command is in progress -/

/-- `WAIT_SNAP(op)` reads nothing of its pins but the snapshot's acknowledge. -/
theorem tick_waitForSnap_congr (op : SnapOp) (s : State) {p q : Pins} (rest : List Pins)
    (h : p.snapAck = q.snapAck) :
    tick (waitForSnap op (setInputs (p :: rest) s)) = tick (waitForSnap op (setInputs (q :: rest) s)) := by
  cases hS : q.snapAck.delivered with
  | none =>
    rw [waitForSnap_of_undelivered (s := setInputs (q :: rest) s) hS,
      waitForSnap_of_undelivered (s := setInputs (p :: rest) s) (by simpa [h] using hS)]
    rfl
  | some S =>
    rw [waitForSnap_of_delivered (s := setInputs (q :: rest) s) hS,
      waitForSnap_of_delivered (s := setInputs (p :: rest) s) (by simpa [h] using hS),
      snapCommit_setInputs, snapCommit_setInputs]
    rfl

/-- `WAIT_CONN(n)` reads nothing of its pins but the probe's acknowledge. -/
theorem tick_waitForConn_congr (n : Data) (s : State) {p q : Pins} (rest : List Pins)
    (h : p.connAck = q.connAck) :
    tick (waitForConn n (setInputs (p :: rest) s)) = tick (waitForConn n (setInputs (q :: rest) s)) := by
  cases hb : q.connAck.delivered with
  | none =>
    rw [waitForConn_of_undelivered (s := setInputs (q :: rest) s) hb,
      waitForConn_of_undelivered (s := setInputs (p :: rest) s) (by simpa [h] using hb)]
    rfl
  | some b =>
    rw [waitForConn_of_delivered (s := setInputs (q :: rest) s) hb,
      waitForConn_of_delivered (s := setInputs (p :: rest) s) (by simpa [h] using hb)]
    rfl

/-- A held response reads nothing of its pins but `rsp_ready`. -/
theorem tick_offerResponse_congr (r : ResponseWord) (s : State) {p q : Pins} (rest : List Pins)
    (h : p.rspReady = q.rspReady) :
    tick (offerResponse r (setInputs (p :: rest) s)) = tick (offerResponse r (setInputs (q :: rest) s)) := by
  cases hready : q.rspReady with
  | false =>
    rw [offerResponse_of_not_ready (s := setInputs (q :: rest) s) hready,
      offerResponse_of_not_ready (s := setInputs (p :: rest) s) (h.trans hready)]
    rfl
  | true =>
    rw [offerResponse_of_ready (s := setInputs (q :: rest) s) hready,
      offerResponse_of_ready (s := setInputs (p :: rest) s) (h.trans hready)]
    rfl

/-- Under reset no other pin is read, and each busy phase reads one pin that is not the command port's. -/
theorem step_congr_of_busy {s : State} {p q : Pins} (rest : List Pins) (hbusy : s.phase ≠ .idle)
    (hrst : p.rst = q.rst) (hsnap : p.snapAck = q.snapAck) (hconn : p.connAck = q.connAck)
    (hrsp : p.rspReady = q.rspReady) :
    step (setInputs (p :: rest) s) = step (setInputs (q :: rest) s) := by
  cases hr : q.rst with
  | true =>
    rw [step_of_reset (s := setInputs (p :: rest) s) (hrst.trans hr),
      step_of_reset (s := setInputs (q :: rest) s) hr]
    rfl
  | false =>
    cases hp : s.phase with
    | idle => exact absurd hp hbusy
    | waitSnap op =>
      rw [step_of_waitSnap (s := setInputs (p :: rest) s) (hrst.trans hr) hp,
        step_of_waitSnap (s := setInputs (q :: rest) s) hr hp, tick_waitForSnap_congr op s rest hsnap]
    | waitConn n =>
      rw [step_of_waitConn (s := setInputs (p :: rest) s) (hrst.trans hr) hp,
        step_of_waitConn (s := setInputs (q :: rest) s) hr hp, tick_waitForConn_congr n s rest hconn]
    | respond r =>
      rw [step_of_respond (s := setInputs (p :: rest) s) (hrst.trans hr) hp,
        step_of_respond (s := setInputs (q :: rest) s) hr hp, tick_offerResponse_congr r s rest hrsp]

/-- Settles O19: the two steps differ in the command port alone. -/
theorem commandIsNotAcceptedWhileBusy : Obligations.CommandIsNotAcceptedWhileBusy :=
  fun _ _ rest _ hbusy => step_congr_of_busy rest hbusy rfl rfl rfl rfl

/-! ### The balance of commands and responses -/

theorem accepts_iff {s : State} :
    accepts s = true ↔ (s.phase = .idle ∧ s.pins.rst = false) ∧ ∃ w, s.pins.cmd = some w := by
  simp [accepts, cmdReady_iff, Option.isSome_iff_exists]

theorem outstanding_of_idle {s : State} (h : s.phase = .idle) : outstanding s = 0 := if_pos h

theorem outstanding_of_busy {s : State} (h : s.phase ≠ .idle) : outstanding s = 1 := if_neg h

theorem responsesTaken_of_trace_eq {s t : State} (h : t.trace = s.trace) : responsesTaken t = responsesTaken s := by
  rw [responsesTaken, h, responsesTaken]

/-- A taken response counts once. -/
theorem responsesTaken_record_response (r : ResponseWord) (s : State) :
    responsesTaken (record (.response r) s) = responsesTaken s + 1 :=
  List.countP_cons_of_pos rfl

/-- A command's own port events are no responses. -/
theorem responsesTaken_of_exec {i : Instr} {s t : State} (h : exec i s = .next t) :
    responsesTaken t = responsesTaken s := by
  rcases (exec_ports h).2 with ht | ht | ht
  · exact responsesTaken_of_trace_eq ht
  · exact responsesTaken_of_trace_eq (s := record .snapRead s) ht
  · exact responsesTaken_of_trace_eq (s := record .connProbe s) ht

/-- The balance of a step that accepts a word: a command is then outstanding, and no response is taken. -/
theorem balance_of_accept {s t : State} {w : CommandWord} (hr : s.pins.rst = false) (hp : s.phase = .idle)
    (hc : s.pins.cmd = some w) (htaken : responsesTaken t = responsesTaken s) (hbusy : t.phase ≠ .idle) :
    responsesTaken t + outstanding t = responsesTaken s + outstanding s + (if accepts s = true then 1 else 0) := by
  rw [if_pos (accepts_iff.2 ⟨⟨hp, hr⟩, w, hc⟩), htaken, outstanding_of_idle hp, outstanding_of_busy hbusy]

/-- The balance of a step in a busy phase, which accepts no word: the command stays outstanding, or its response is
taken. -/
theorem balance_of_busy {s t : State} (hp : s.phase ≠ .idle)
    (h : responsesTaken t + outstanding t = responsesTaken s + 1) :
    responsesTaken t + outstanding t = responsesTaken s + outstanding s + (if accepts s = true then 1 else 0) := by
  rw [if_neg fun ha => hp (accepts_iff.1 ha).1.1, outstanding_of_busy hp, h]

/-- The balance of a step that keeps a busy phase busy and adds nothing to the port history. -/
theorem balance_of_held {s t : State} (hp : s.phase ≠ .idle) (htrace : t.trace = s.trace) (ht : t.phase ≠ .idle) :
    responsesTaken t + outstanding t = responsesTaken s + outstanding s + (if accepts s = true then 1 else 0) :=
  balance_of_busy hp (by rw [outstanding_of_busy ht, responsesTaken_of_trace_eq htrace])

/-- Settles O20, by the kinds of step. -/
theorem responsesAndOutstandingCommandsBalance : Obligations.ResponsesAndOutstandingCommandsBalance := by
  intro s t hr h
  cases stepped_of_step h with
  | reset hrst =>
    rw [hr] at hrst
    cases hrst
  | quiet _ hp hc =>
    have hnone : ¬accepts s = true := by simp [accepts, hc]
    rw [if_neg hnone]
    rfl
  | command w i u _ hp hc _ he =>
    have htaken : responsesTaken (tick u) = responsesTaken s :=
      responsesTaken_of_exec (s := acceptCommand w s) (t := u) he
    exact balance_of_accept hr hp hc htaken (exec_ports he).1
  | illegal w e _ hp hc => exact balance_of_accept hr hp hc rfl Phase.noConfusion
  | waitSnap op _ hp =>
    have hbusy : s.phase ≠ .idle := by simp [hp]
    obtain ⟨htrace, hkeeps⟩ := waitForSnap_ports op s
    exact balance_of_held hbusy htrace (hkeeps hbusy)
  | waitConn n _ hp =>
    have hbusy : s.phase ≠ .idle := by simp [hp]
    obtain ⟨htrace, hkeeps⟩ := waitForConn_ports n s
    exact balance_of_held hbusy htrace (hkeeps hbusy)
  | respond r _ hp =>
    have hbusy : s.phase ≠ .idle := by simp [hp]
    rcases offerResponse_cases r s with he | he
    · rw [he]
      exact balance_of_held hbusy rfl hbusy
    · apply balance_of_busy hbusy
      rw [he, outstanding_of_idle (s := tick (setPhase .idle _)) rfl]
      exact responsesTaken_record_response r s

/-! ### What is answered -/

/-- Settles O50, by where an offered response comes from: a reserved word is accepted only in `IDLE`, and no command
that waits holds a response. -/
theorem commandsNeverAnswerErr : Obligations.CommandsNeverAnswerErr := by
  refine ⟨fun _ _ _ _ => exec_responseErr, fun s t r h hr hwait => ?_, fun s t r h hr herr => ?_⟩
  · rcases step_responseErr h hr with hfalse | hheld | ⟨-, hidle, -⟩
    · exact hfalse
    · rcases hwait with ⟨op, hp⟩ | ⟨n, hp⟩ <;> cases hp.symm.trans hheld
    · rcases hwait with ⟨op, hp⟩ | ⟨n, hp⟩ <;> cases hp.symm.trans hidle
  · rcases step_responseErr h hr with hfalse | hheld | ⟨-, haccept⟩
    · cases hfalse.symm.trans herr
    · exact .inl hheld
    · exact .inr haccept

/-- UPDATE and UPDATE_WEIGHTED answer the change flag (R52, R72). -/
theorem decodeCommit_phase (d : StepClass → Int) (S : Snapshot) (s : State) :
    (decodeCommit d S s).phase = .respond (responseWord false (decide (S ≠ s.lastSnap)) 0) := by
  by_cases h : S = s.lastSnap
  · rw [decodeCommit_of_eq d h, respond_phase, decide_eq_false (not_not.2 h)]
  · rw [decodeCommit_of_ne d h, respond_phase, decide_eq_true h]

/-- HAS_CHANGED answers the change flag (R52, R62). -/
theorem hasChangedCommit_phase (S : Snapshot) (s : State) :
    (hasChangedCommit S s).phase = .respond (responseWord false (decide (S ≠ s.lastSnap)) 0) := by
  simp [hasChangedCommit, snapChanged, bne, beq_eq_decide]

/-- The answer to a waiting snapshot command ends the wait in the response of its commit. -/
theorem step_waitSnap_answers {s : State} {op : SnapOp} {S : Snapshot} {p : Phase} (hr : s.pins.rst = false)
    (hS : s.pins.snapAck.delivered = some S) (hcommit : (snapCommit op S s).phase = p) (hp : s.phase = .waitSnap op) :
    ∃ t, step s = .next t ∧ t.phase = p :=
  ⟨tick (snapCommit op S s), by rw [step_of_waitSnap hr hp, waitForSnap_of_delivered hS], hcommit⟩

/-- Settles O21, by the response of each commit. -/
theorem answeredWaitOffersResponse : Obligations.AnsweredWaitOffersResponse := by
  intro s hr
  refine ⟨fun S hS => ⟨?_, ?_, ?_, ?_⟩, fun n b hp hb => ?_⟩
  · exact step_waitSnap_answers hr hS rfl
  · exact step_waitSnap_answers hr hS (hasChangedCommit_phase S s)
  · exact step_waitSnap_answers hr hS (decodeCommit_phase deltaU S s)
  · exact step_waitSnap_answers hr hS (decodeCommit_phase deltaW S s)
  · rw [step_of_waitConn hr hp, waitForConn_of_delivered hb]
    rfl

end Sys2Proof.Machine

/-!
The setup commands (R59, R60): their words, their effect, and what they leave unchanged.
-/
namespace Sys2Proof.Machine

/-! ### Words -/

/-- R47: the word of a command as a number. -/
theorem encode_toNat (i : Instr) :
    (encode i).toNat = (opcode i).toNat * 2 ^ 40 + (chField i).toNat * 2 ^ 32 + (dataField i).toNat :=
  packFields_toNat (opcode i) (chField i) (dataField i)

/-- R48: a command that uses no operand field is decoded from its opcode alone. -/
theorem decode_of_commandOp {w : CommandWord} {i : Instr} (hop : commandOp w = opcode i)
    (hch : opcodeUsesCh (opcode i) = false) (hdata : opcodeUsesData (opcode i) = false) : decode w = .ok i :=
  decode_of_fieldsMatch ⟨hop, by simp [hch], by simp [hdata]⟩

theorem decode_init {w : CommandWord} {n : Data} (hop : commandOp w = 0x01#8) (hdata : commandData w = n) :
    decode w = .ok (.init n) :=
  decode_of_fieldsMatch ⟨hop, nofun, fun _ => hdata⟩

theorem encode_init_toNat (n : Data) : (encode (.init n)).toNat = 0x010000000000 + n.toNat := by
  simp [encode_toNat, opcode, chField, dataField]

/-! ### Effects -/

theorem exec_init_of_delivered {n : Data} {s : State} {b : Bool} (h : s.pins.connAck.delivered = some b) :
    exec (.init n) s = .next (initCommit n b (record .connProbe s)) := by
  rw [exec, execInit, probeConnected_of_delivered h]

theorem exec_init_of_undelivered {n : Data} {s : State} (h : s.pins.connAck.delivered = none) :
    exec (.init n) s = .next (setPhase (.waitConn n) (record .connProbe s)) := by
  rw [exec, execInit, probeConnected_of_undelivered h]

/-- R60: RESET_ALL is two bulk writes of zeros, the cache and the response; it reads no pin. -/
theorem exec_resetAll (s : State) :
    exec .resetAll s = .next (respond false true 0
      (writeLastSnap 0 (writeLastPositions (fun _ => 0) (writeCounts (fun _ => 0) s)))) := rfl

theorem ofFn_zero_eq_literal {k : Nat} :
    Vector.ofFn (fun _ : Fin 8 => (0 : BitVec k)) = #v[0, 0, 0, 0, 0, 0, 0, 0] := rfl

/-! ### The statements -/

/-- Settles O27: the commit follows the probe in the same step or waits for it, and writes `cc` alone. -/
theorem initWritesClampedCountAndAnswersProbe : Obligations.InitWritesClampedCountAndAnswersProbe :=
  fun n _ => ⟨encode_init_toNat n, fun _ => decode_init, fun _ => exec_init_of_delivered,
    exec_init_of_undelivered⟩

/-- Settles O28: the bulk writes leave the zero vectors, and the response is the only other write. -/
theorem resetAllZeroesChannelsAndCache : Obligations.ResetAllZeroesChannelsAndCache := by
  refine ⟨fun w hop => decode_of_commandOp hop rfl rfl, rfl, fun s => ?_⟩
  rw [exec_resetAll, writeLastPositions, writeCounts, ofFn_zero_eq_literal, ofFn_zero_eq_literal]
  rfl

end Sys2Proof.Machine

/-!
The sampling commands (R61, R62): one snapshot read, then the commit or the wait for it.
-/
namespace Sys2Proof.Machine

/-! ### The snapshot read -/

/-- R31, R53: a snapshot that is delivered at once is committed after its request is recorded. -/
theorem exec_snapInstr_eq_commit {op : SnapOp} {s : State} {S : Snapshot}
    (h : s.pins.snapAck.delivered = some S) :
    exec (snapInstr op) s = .next (snapCommit op S (record .snapRead s)) := by
  rw [exec_snapInstr, snapRead_of_delivered h]

/-- R24, R35: without a snapshot the command's request is recorded and the command waits. -/
theorem exec_snapInstr_eq_wait {op : SnapOp} {s : State} (h : s.pins.snapAck.delivered = none) :
    exec (snapInstr op) s = .next (setPhase (.waitSnap op) (record .snapRead s)) := by
  rw [exec_snapInstr, snapRead_of_undelivered h]

/-! ### The commits -/

/-- R61, R37: PRIME's positions, in terms of `cc` and the bits of the snapshot. -/
theorem primeCommit_lastPosAt_bits (S : Snapshot) (s : State) (i : Channel) :
    (primeCommit S s).lastPosAt i =
      if i.val < s.cc.toNat then S.extractLsb' (2 * i.val) 2 else s.lastPosAt i := by
  simp only [primeCommit_lastPosAt, active_iff, field_eq_extractLsb']

/-- R62: the response is all that HAS_CHANGED's commit writes. -/
theorem hasChangedCommit_eq_setPhase (S : Snapshot) (s : State) :
    hasChangedCommit S s = setPhase (.respond (responseWord false (decide (S ≠ s.lastSnap)) 0)) s := by
  rw [← hasChangedCommit_phase S s]
  rfl

/-! ### The statements -/

/-- Settles O29: PRIME commits on its snapshot or waits for it, and its commit leaves every count, `cc` and the ports
as they are after the request. -/
theorem primeLoadsCacheAndActivePositions : Obligations.PrimeLoadsCacheAndActivePositions := by
  refine ⟨fun w hop => decode_of_commandOp hop rfl rfl, rfl, fun s => ⟨fun S hS => ?_, ?_⟩⟩
  · have hpos := primeCommit_lastPosAt_bits S (record .snapRead s)
    exact ⟨_, exec_snapInstr_eq_commit (op := .prime) hS, rfl, hpos, rfl, rfl, rfl, rfl, rfl⟩
  · exact exec_snapInstr_eq_wait (op := .prime)

/-- Settles O30: HAS_CHANGED commits on its snapshot or waits for it, and its commit writes the response alone. -/
theorem hasChangedComparesAndWritesNothing : Obligations.HasChangedComparesAndWritesNothing := by
  refine ⟨fun w hop => decode_of_commandOp hop rfl rfl, rfl, fun s => ⟨fun S hS => ?_, ?_⟩⟩
  · have hcommit := hasChangedCommit_eq_setPhase S (record .snapRead s)
    exact (exec_snapInstr_eq_commit (op := .hasChanged) hS).trans (congrArg Host.Outcome.next hcommit)
  · exact exec_snapInstr_eq_wait (op := .hasChanged)

end Sys2Proof.Machine

/-!
The edge detector (R64 to R68): each transition code has one class, each class one delta of each table, and the class
is the number of Gray steps.
-/
namespace Sys2Proof.Machine

/-! ### Transition codes and their classes -/

/-- R64: the code as a number. -/
theorem transitionCode_toNat (prev cur : Position) :
    (transitionCode prev cur).toNat = 4 * prev.toNat + cur.toNat := by
  revert prev cur
  decide

theorem classify_eq_forward_iff (code : BitVec 4) :
    classify code = .forward ↔ code.toNat ∈ [0b0001, 0b0111, 0b1110, 0b1000] := by
  revert code
  decide

theorem classify_eq_reverse_iff (code : BitVec 4) :
    classify code = .reverse ↔ code.toNat ∈ [0b0010, 0b0100, 0b1101, 0b1011] := by
  revert code
  decide

theorem classify_eq_skip_iff (code : BitVec 4) :
    classify code = .skip ↔ code.toNat ∈ [0b0011, 0b0110, 0b1001, 0b1100] := by
  revert code
  decide

/-! ### Gray steps -/

/-- R66, R68: the weighted delta of a transition is its number of Gray steps. -/
theorem deltaW_classify (prev cur : Position) :
    deltaW (classify (transitionCode prev cur)) = grayStep prev cur := by
  revert prev cur
  decide

theorem grayStep_self (p : Position) : grayStep p p = 0 := by
  revert p
  decide

/-! ### The counts of a lane -/

/-- R67, R73: UPDATE's count, by the transition code. -/
theorem laneCount_deltaU (c : Count) (prev cur : Position) :
    laneCount deltaU c prev cur =
      if 4 * prev.toNat + cur.toNat ∈ [0b0001, 0b0111, 0b1110, 0b1000] then c + 1
      else if 4 * prev.toNat + cur.toNat ∈ [0b0010, 0b0100, 0b1101, 0b1011] then c - 1
      else c := by
  simp only [laneCount, addDelta, ← transitionCode_toNat, ← classify_eq_forward_iff, ← classify_eq_reverse_iff]
  cases classify (transitionCode prev cur) <;> simp [deltaU, BitVec.sub_eq_add_neg]

/-- R68, R74: UPDATE_WEIGHTED's count, by the transition code. -/
theorem laneCount_deltaW (c : Count) (prev cur : Position) :
    laneCount deltaW c prev cur =
      if 4 * prev.toNat + cur.toNat ∈ [0b0001, 0b0111, 0b1110, 0b1000] then c + 1
      else if 4 * prev.toNat + cur.toNat ∈ [0b0011, 0b0110, 0b1001, 0b1100] then c + 2
      else if 4 * prev.toNat + cur.toNat ∈ [0b0010, 0b0100, 0b1101, 0b1011] then c + 3
      else c := by
  simp only [laneCount, addDelta, ← transitionCode_toNat, ← classify_eq_forward_iff, ← classify_eq_skip_iff,
    ← classify_eq_reverse_iff]
  cases classify (transitionCode prev cur) <;> simp [deltaW]

/-- R68: UPDATE_WEIGHTED's count, by the Gray positions. -/
theorem laneCount_deltaW_eq_add_grayStep (c : Count) (prev cur : Position) :
    laneCount deltaW c prev cur = c + BitVec.ofNat 32 (grayStep prev cur) := by
  rw [laneCount, addDelta, deltaW_classify, BitVec.ofInt_natCast]

/-! ### The statements -/

/-- Settles O35: the table is finite, and the model's definitions evaluate to its rows. -/
theorem transitionTableHasSixteenRows : Obligations.TransitionTableHasSixteenRows := by
  unfold Obligations.TransitionTableHasSixteenRows
  decide

/-- Settles O36: the class determines both deltas, and its weighted delta is the step count. -/
theorem deltasAreGrayStepCounts : Obligations.DeltasAreGrayStepCounts := by
  intro prev cur
  have hk : grayStep prev cur = (deltaW (classify (transitionCode prev cur))).toNat := by
    rw [deltaW_classify, Int.toNat_natCast]
  refine ⟨deltaW_classify prev cur, ?_⟩
  rw [hk]
  cases classify (transitionCode prev cur) <;> decide

end Sys2Proof.Machine

/-!
The channel lanes (R69 to R71): a lane reads and writes its own channel alone, so that the lanes may run at once or one
after another.
-/
namespace Sys2Proof.Machine

/-! ### One channel -/

/-- Two states have the same registers for channel `i`, and it is active in both or in neither. -/
structure AgreeAt (i : Channel) (s t : State) : Prop where
  active : s.active i = t.active i
  countAt : s.countAt i = t.countAt i
  lastPosAt : s.lastPosAt i = t.lastPosAt i

theorem AgreeAt.refl (i : Channel) (s : State) : AgreeAt i s s := ⟨rfl, rfl, rfl⟩

theorem AgreeAt.trans {i : Channel} {s t u : State} (h : AgreeAt i s t) (h' : AgreeAt i t u) : AgreeAt i s u :=
  ⟨h.active.trans h'.active, h.countAt.trans h'.countAt, h.lastPosAt.trans h'.lastPosAt⟩

/-- R70: what the lanes do to a channel depends on that channel and its field alone. -/
theorem AgreeAt.runLanes {i : Channel} {s t : State} {S T : Snapshot} (d : StepClass → Int) (h : AgreeAt i s t)
    (hfield : field S i = field T i) : AgreeAt i (runLanes d S s) (runLanes d T t) := by
  refine ⟨h.active, ?_, ?_⟩
  · rw [runLanes_countAt, runLanes_countAt, h.active, h.countAt, h.lastPosAt, hfield]
  · rw [runLanes_lastPosAt, runLanes_lastPosAt, h.active, h.lastPosAt, hfield]

/-! ### One lane of the loop -/

/-- One turn of the source's loop: the lane of channel `i`, if the channel is active (R69). -/
def activeLane (d : StepClass → Int) (S : Snapshot) (s : State) (i : Channel) : State :=
  if s.active i then lane d S i s else s

theorem runLanesInOrder_eq_foldl (d : StepClass → Int) (S : Snapshot) (s : State) :
    runLanesInOrder d S s = (List.finRange 8).foldl (activeLane d S) s := rfl

theorem activeLane_of_active (d : StepClass → Int) (S : Snapshot) {s : State} {i : Channel} (h : s.active i = true) :
    activeLane d S s i = lane d S i s := if_pos h

theorem activeLane_of_inactive (d : StepClass → Int) (S : Snapshot) {s : State} {i : Channel}
    (h : s.active i = false) : activeLane d S s i = s := by
  simp [activeLane, h]

/-- On its own channel a turn of the loop does what the parallel lanes do. -/
theorem agreeAt_activeLane_runLanes (d : StepClass → Int) (S : Snapshot) (s : State) (i : Channel) :
    AgreeAt i (activeLane d S s i) (runLanes d S s) := by
  cases h : s.active i with
  | true =>
    rw [activeLane_of_active d S h]
    constructor <;> simp [lane, writeCount_countAt, writeLastPos_lastPosAt, runLanes_countAt, runLanes_lastPosAt, h]
  | false =>
    rw [activeLane_of_inactive d S h]
    constructor <;> simp [runLanes_countAt, runLanes_lastPosAt, h]

/-- Another channel's turn of the loop leaves a channel as it is. -/
theorem agreeAt_activeLane_of_ne (d : StepClass → Int) (S : Snapshot) (s : State) {i k : Channel} (hne : i ≠ k) :
    AgreeAt i (activeLane d S s k) s := by
  cases h : s.active k with
  | true =>
    rw [activeLane_of_active d S h]
    constructor <;> simp [lane, writeCount_countAt, writeLastPos_lastPosAt, hne]
  | false =>
    rw [activeLane_of_inactive d S h]
    exact .refl i s

/-! ### The loop -/

theorem agreeAt_foldl_of_notMem (d : StepClass → Int) (S : Snapshot) {i : Channel} (l : List Channel) (s : State)
    (hi : i ∉ l) : AgreeAt i (l.foldl (activeLane d S) s) s := by
  induction l generalizing s with
  | nil => exact .refl i s
  | cons k l ih =>
    obtain ⟨hne, hi⟩ := List.ne_and_not_mem_of_not_mem_cons hi
    exact (ih (activeLane d S s k) hi).trans (agreeAt_activeLane_of_ne d S s hne)

/-- A loop that visits a channel once does to it what the parallel lanes do: the turns before leave it as it is, so its
own turn finds what the parallel lane reads, and the turns after leave the result. -/
theorem agreeAt_foldl_runLanes (d : StepClass → Int) (S : Snapshot) {i : Channel} (l : List Channel) (s : State)
    (hl : l.Nodup) (hi : i ∈ l) : AgreeAt i (l.foldl (activeLane d S) s) (runLanes d S s) := by
  induction l generalizing s with
  | nil => cases hi
  | cons k l ih =>
    obtain ⟨hk, hl⟩ := List.nodup_cons.1 hl
    by_cases hik : i = k
    · subst hik
      exact (agreeAt_foldl_of_notMem d S l _ hk).trans (agreeAt_activeLane_runLanes d S s i)
    · have hmem : i ∈ l := List.mem_of_ne_of_mem hik hi
      exact (ih (activeLane d S s k) hl hmem).trans ((agreeAt_activeLane_of_ne d S s hik).runLanes d rfl)

/-! ### What the lanes do not write -/

/-- The state without the channels' registers. -/
def State.rest (s : State) : ChannelCount × Snapshot × Phase × List Pins × List PortEvent :=
  (s.cc, s.lastSnap, s.phase, s.inputs, s.trace)

theorem runLanes_rest (d : StepClass → Int) (S : Snapshot) (s : State) : (runLanes d S s).rest = s.rest := rfl

theorem activeLane_rest (d : StepClass → Int) (S : Snapshot) (s : State) (i : Channel) :
    (activeLane d S s i).rest = s.rest := by
  unfold activeLane
  split <;> rfl

theorem foldl_activeLane_rest (d : StepClass → Int) (S : Snapshot) (l : List Channel) (s : State) :
    (l.foldl (activeLane d S) s).rest = s.rest := by
  induction l generalizing s with
  | nil => rfl
  | cons k l ih => exact (ih (activeLane d S s k)).trans (activeLane_rest d S s k)

theorem eq_of_agreeAt_of_rest {s t : State} (h : ∀ i, AgreeAt i s t) (hrest : s.rest = t.rest) : s = t := by
  simp only [State.rest, Prod.mk.injEq] at hrest
  obtain ⟨hcc, hsnap, hphase, hinputs, htrace⟩ := hrest
  exact State.ext_channels (fun i => (h i).countAt) (fun i => (h i).lastPosAt) hcc hsnap hphase hinputs htrace

/-- Settles O38: the loop visits each channel once. -/
theorem parallelLanesEqualSequentialLoop : Obligations.ParallelLanesEqualSequentialLoop := by
  intro d S s
  rw [runLanesInOrder_eq_foldl]
  refine (eq_of_agreeAt_of_rest (fun i => ?_) ?_).symm
  · exact agreeAt_foldl_runLanes d S _ s (List.nodup_finRange 8) (List.mem_finRange i)
  · rw [foldl_activeLane_rest, runLanes_rest]

end Sys2Proof.Machine

/-!
The decode commands (R63, R69 to R74): one snapshot read, then the early exit, the lanes, or the wait.
-/
namespace Sys2Proof.Machine

/-! ### The commands -/

/-- The state that a decode command leaves when its answer differs from the cache: the request, the cache, the lanes
and the response `{0, 1, 0}`. -/
def decoded (d : StepClass → Int) (S : Snapshot) (s : State) : State :=
  respond false true 0 (runLanes d S (writeLastSnap S (record .snapRead s)))

theorem exec_update_eq_decoded {s : State} {S : Snapshot} (hS : s.pins.snapAck.delivered = some S)
    (hne : S ≠ s.lastSnap) : exec .update s = .next (decoded deltaU S s) := exec_update_of_ne hS hne

theorem exec_updateWeighted_eq_decoded {s : State} {S : Snapshot} (hS : s.pins.snapAck.delivered = some S)
    (hne : S ≠ s.lastSnap) : exec .updateWeighted s = .next (decoded deltaW S s) := exec_updateWeighted_of_ne hS hne

theorem decoded_lastPosAt (d : StepClass → Int) (S : Snapshot) (s : State) (i : Channel) :
    (decoded d S s).lastPosAt i = if s.active i then field S i else s.lastPosAt i :=
  runLanes_lastPosAt d S (writeLastSnap S (record .snapRead s)) i

theorem decoded_countAt (d : StepClass → Int) (S : Snapshot) (s : State) (i : Channel) :
    (decoded d S s).countAt i =
      if s.active i then laneCount d (s.countAt i) (s.lastPosAt i) (field S i) else s.countAt i :=
  runLanes_countAt d S (writeLastSnap S (record .snapRead s)) i

/-- R37, R69: an active channel's position, in terms of `cc` and the bits of the snapshot. -/
theorem decoded_lastPosAt_of_lt (d : StepClass → Int) (S : Snapshot) {s : State} {i : Channel}
    (hi : i.val < s.cc.toNat) : (decoded d S s).lastPosAt i = S.extractLsb' (2 * i.val) 2 := by
  rw [decoded_lastPosAt, if_pos (active_iff.2 hi), field_eq_extractLsb']

/-- R37, R69: an active channel's count, in terms of `cc` and the bits of the snapshot. -/
theorem decoded_countAt_of_lt (d : StepClass → Int) (S : Snapshot) {s : State} {i : Channel}
    (hi : i.val < s.cc.toNat) :
    (decoded d S s).countAt i = laneCount d (s.countAt i) (s.lastPosAt i) (S.extractLsb' (2 * i.val) 2) := by
  rw [decoded_countAt, if_pos (active_iff.2 hi), field_eq_extractLsb']

/-- R71: an inactive channel is left as it is. -/
theorem decoded_of_le (d : StepClass → Int) (S : Snapshot) {s : State} {i : Channel} (hi : s.cc.toNat ≤ i.val) :
    (decoded d S s).countAt i = s.countAt i ∧ (decoded d S s).lastPosAt i = s.lastPosAt i := by
  simp [decoded_countAt, decoded_lastPosAt, inactive_iff.2 hi]

theorem AgreeAt.decoded {i : Channel} {s t : State} {S T : Snapshot} (d : StepClass → Int) (h : AgreeAt i s t)
    (hfield : field S i = field T i) : AgreeAt i (decoded d S s) (decoded d T t) := by
  have hcached : AgreeAt i (writeLastSnap S (record .snapRead s)) (writeLastSnap T (record .snapRead t)) :=
    ⟨h.active, h.countAt, h.lastPosAt⟩
  have hlanes := hcached.runLanes d hfield
  exact ⟨hlanes.active, hlanes.countAt, hlanes.lastPosAt⟩

/-! ### The statements -/

/-- Settles O31: UPDATE exits early, runs its lanes with `deltaU`, or waits. -/
theorem updateDecodesActiveChannels : Obligations.UpdateDecodesActiveChannels := by
  refine ⟨fun w hop => decode_of_commandOp hop rfl rfl, rfl, fun s => ⟨exec_update_of_eq, fun S hS hne => ?_, ?_⟩⟩
  · refine ⟨_, exec_update_eq_decoded hS hne, rfl, fun i hi => ⟨decoded_lastPosAt_of_lt deltaU S hi, ?_⟩,
      fun _ => decoded_of_le deltaU S, rfl, rfl, rfl, rfl⟩
    exact (decoded_countAt_of_lt deltaU S hi).trans (laneCount_deltaU _ _ _)
  · exact exec_snapInstr_eq_wait (op := .update)

/-- Settles O32: UPDATE_WEIGHTED exits early, runs its lanes with `deltaW`, or waits. -/
theorem updateWeightedDecodesActiveChannels : Obligations.UpdateWeightedDecodesActiveChannels := by
  refine ⟨fun w hop => decode_of_commandOp hop rfl rfl, rfl,
    fun s => ⟨exec_updateWeighted_of_eq, fun S hS hne => ?_, ?_⟩⟩
  · refine ⟨_, exec_updateWeighted_eq_decoded hS hne, rfl, fun i hi => ⟨decoded_lastPosAt_of_lt deltaW S hi, ?_⟩,
      fun _ => decoded_of_le deltaW S, rfl, rfl, rfl, rfl⟩
    exact (decoded_countAt_of_lt deltaW S hi).trans (laneCount_deltaW _ _ _)
  · exact exec_snapInstr_eq_wait (op := .updateWeighted)

/-- Settles O39: both commands leave their lanes' result, and the lanes keep the agreement on the channel. -/
theorem laneReadsOnlyItsOwnChannel : Obligations.LaneReadsOnlyItsOwnChannel := by
  intro i s s' t t' S S' hactive hcount hpos hfield hne hne' hS hS' hexec
  have hagree : AgreeAt i s s' := ⟨hactive, hcount, hpos⟩
  rcases hexec with ⟨h, h'⟩ | ⟨h, h'⟩
  · cases (exec_update_eq_decoded hS hne).symm.trans h
    cases (exec_update_eq_decoded hS' hne').symm.trans h'
    have hdone := hagree.decoded deltaU hfield
    exact ⟨hdone.countAt, hdone.lastPosAt⟩
  · cases (exec_updateWeighted_eq_decoded hS hne).symm.trans h
    cases (exec_updateWeighted_eq_decoded hS' hne').symm.trans h'
    have hdone := hagree.decoded deltaW hfield
    exact ⟨hdone.countAt, hdone.lastPosAt⟩

/-- A channel whose registers did not change has moved by no Gray step. -/
theorem countAt_eq_add_grayStep_of_unchanged {s t : State} {i : Channel}
    (h : t.countAt i = s.countAt i ∧ t.lastPosAt i = s.lastPosAt i) :
    t.countAt i = s.countAt i + BitVec.ofNat 32 (grayStep (s.lastPosAt i) (t.lastPosAt i)) := by
  obtain ⟨hcount, hpos⟩ := h
  simp [hcount, hpos, grayStep_self]

/-- Settles O40: a wait, the early exit and an inactive channel leave the registers; an active lane adds its steps. -/
theorem weightedCountFollowsGrayPosition : Obligations.WeightedCountFollowsGrayPosition := by
  intro s t i h
  cases hS : s.pins.snapAck.delivered with
  | none =>
    cases (exec_snapInstr_eq_wait (op := .updateWeighted) hS).symm.trans h
    exact countAt_eq_add_grayStep_of_unchanged ⟨rfl, rfl⟩
  | some S =>
    by_cases hne : S = s.lastSnap
    · subst hne
      cases (exec_updateWeighted_of_eq hS).symm.trans h
      exact countAt_eq_add_grayStep_of_unchanged ⟨rfl, rfl⟩
    · cases (exec_updateWeighted_eq_decoded hS hne).symm.trans h
      rcases lt_or_ge i.val s.cc.toNat with hi | hi
      · rw [decoded_lastPosAt_of_lt deltaW S hi, decoded_countAt_of_lt deltaW S hi]
        exact laneCount_deltaW_eq_add_grayStep _ _ _
      · exact countAt_eq_add_grayStep_of_unchanged (decoded_of_le deltaW S hi)

end Sys2Proof.Machine

/-!
A machine that no INIT has configured (R21, R80): which steps keep it so, by the words they accept.
-/
namespace Sys2Proof.Machine

/-- `cc` is 0, and no INIT that could write it waits for its probe. -/
def Unconfigured (s : State) : Prop := s.cc = 0#4 ∧ ∀ n, s.phase ≠ .waitConn n

/-- A history accepts no command with INIT's opcode. -/
def AcceptsNoInit (events : List PortEvent) : Prop := ∀ w ∈ commandsAccepted events, commandOp w ≠ 0x01#8

theorem unconfiguredUntilInit_iff {start : List PortEvent} {s : State} :
    UnconfiguredUntilInit start s ↔
      ∃ events, s.trace = events ++ start ∧ (AcceptsNoInit events → Unconfigured s) := Iff.rfl

theorem unconfigured_reset : Unconfigured State.reset := ⟨rfl, nofun⟩

theorem Unconfigured.untilInit {s : State} (h : Unconfigured s) : UnconfiguredUntilInit s.trace s :=
  unconfiguredUntilInit_iff.2 ⟨[], rfl, fun _ => h⟩

/-! ### Histories -/

/-- Of two histories the later one stands first, and its commands come last. -/
theorem commandsAccepted_append (later earlier : List PortEvent) :
    commandsAccepted (later ++ earlier) = commandsAccepted earlier ++ commandsAccepted later := by
  induction later with
  | nil => exact (List.append_nil _).symm
  | cons e later ih =>
    cases e with
    | command w => simp [commandsAccepted, ih]
    | _ => exact ih

theorem acceptsNoInit_append {later earlier : List PortEvent} :
    AcceptsNoInit (later ++ earlier) ↔ AcceptsNoInit later ∧ AcceptsNoInit earlier := by
  simp only [AcceptsNoInit, commandsAccepted_append, List.forall_mem_append, and_comm]

theorem acceptsNoInit_command {w : CommandWord} : AcceptsNoInit [.command w] ↔ commandOp w ≠ 0x01#8 :=
  List.forall_mem_singleton

/-- What a command adds to the port history after its acceptance. -/
theorem exec_trace {i : Instr} {s t : State} (h : exec i s = .next t) : ∃ events, t.trace = events ++ s.trace := by
  rcases (exec_ports h).2 with ht | ht | ht
  · exact ⟨[], ht⟩
  · exact ⟨[.snapRead], ht⟩
  · exact ⟨[.connProbe], ht⟩

/-! ### Steps -/

/-- R21: a command other than INIT neither writes `cc` nor waits for a probe. -/
theorem exec_unconfigured {i : Instr} {s t : State} (h : exec i s = .next t) (hop : opcode i ≠ 0x01#8)
    (hs : s.cc = 0#4) : Unconfigured t := by
  cases executed_of_exec h with
  | snapCommits op S =>
    obtain ⟨hcc, -, -, ok, data, hp⟩ := snapCommit_frame op S (record .snapRead s)
    exact ⟨hcc.trans hs, by simp [hp]⟩
  | connWaits => exact absurd rfl hop
  | connCommits => exact absurd rfl hop
  | _ => exact ⟨hs, nofun⟩

theorem waitForSnap_unconfigured {op : SnapOp} {s : State} (hs : Unconfigured s) :
    Unconfigured (waitForSnap op s) := by
  cases hS : s.pins.snapAck.delivered with
  | none => rwa [waitForSnap_of_undelivered hS]
  | some S =>
    obtain ⟨hcc, -, -, ok, data, hp⟩ := snapCommit_frame op S s
    rw [waitForSnap_of_delivered hS]
    exact ⟨hcc.trans hs.1, by simp [hp]⟩

/-- A step that accepts no INIT keeps the machine unconfigured: only an accepted INIT leads to a wait for the probe, and
only INIT's commit writes `cc`. -/
theorem step_unconfigured {s t : State} (h : step s = .next t) :
    ∃ events, t.trace = events ++ s.trace ∧ (AcceptsNoInit events → Unconfigured s → Unconfigured t) := by
  cases stepped_of_step h with
  | reset => exact ⟨[], rfl, fun _ _ => unconfigured_reset⟩
  | quiet => exact ⟨[], rfl, fun _ => id⟩
  | command w i u _ _ _ hd he =>
    obtain ⟨events, htrace⟩ := exec_trace he
    refine ⟨events ++ [.command w], by simp [htrace], fun hnone hs => ?_⟩
    have hop : opcode i ≠ 0x01#8 := commandOp_of_decode hd ▸ acceptsNoInit_command.1 (acceptsNoInit_append.1 hnone).2
    have hu : Unconfigured u := exec_unconfigured he hop hs.1
    exact hu
  | illegal w => exact ⟨[.command w], rfl, fun _ hs => ⟨hs.1, nofun⟩⟩
  | waitSnap op => exact ⟨[], (waitForSnap_ports op s).1, fun _ => waitForSnap_unconfigured⟩
  | waitConn n _ hp => exact ⟨[], (waitForConn_ports n s).1, fun _ hs => absurd hp (hs.2 n)⟩
  | respond r =>
    rcases offerResponse_cases r s with he | he
    · rw [he]
      exact ⟨[], rfl, fun _ => id⟩
    · rw [he]
      exact ⟨[.response r], rfl, fun _ hs => ⟨hs.1, nofun⟩⟩

theorem step_unconfiguredUntilInit {start : List PortEvent} {s t : State} (hs : UnconfiguredUntilInit start s)
    (h : step s = .next t) : UnconfiguredUntilInit start t := by
  obtain ⟨earlier, hstart, hunc⟩ := unconfiguredUntilInit_iff.1 hs
  obtain ⟨later, htrace, hkeeps⟩ := step_unconfigured h
  refine unconfiguredUntilInit_iff.2 ⟨later ++ earlier, by rw [htrace, hstart, List.append_assoc], fun hnone => ?_⟩
  obtain ⟨hlater, hearlier⟩ := acceptsNoInit_append.1 hnone
  exact hkeeps hlater (hunc hearlier)

/-- Settles O47: a reset leaves `cc = 0` and `IDLE`, and each step keeps what its own accepted words allow. -/
theorem channelCountIsZeroUntilInit : Obligations.ChannelCountIsZeroUntilInit := by
  refine ⟨unconfigured_reset.untilInit, fun s t hr h => ?_, fun _ _ _ => step_unconfiguredUntilInit⟩
  cases (step_of_reset hr).symm.trans h
  exact Unconfigured.untilInit (s := tick (resetEvent s)) unconfigured_reset

end Sys2Proof.Machine

/-!
The access commands (R77 to R81): their words, what they read or write of a channel in range, and their answer out of
range.
-/
namespace Sys2Proof.Machine

/-! ### Words -/

/-- R48: a command that uses the channel field alone is decoded from its opcode and that field. -/
theorem decode_of_commandCh {w : CommandWord} {i : Instr} (hop : commandOp w = opcode i)
    (hch : commandCh w = chField i) (hdata : opcodeUsesData (opcode i) = false) : decode w = .ok i :=
  decode_of_fieldsMatch ⟨hop, fun _ => hch, by simp [hdata]⟩

theorem encode_getCount_toNat (ch : ChannelIndex) :
    (encode (.getCount ch)).toNat = 0x070000000000 + ch.toNat * 2 ^ 32 := by
  simp [encode_toNat, opcode, chField, dataField]

theorem encode_setCount_toNat (ch : ChannelIndex) (value : Count) :
    (encode (.setCount ch value)).toNat = 0x080000000000 + ch.toNat * 2 ^ 32 + value.toNat := by
  simp [encode_toNat, opcode, chField, dataField]

theorem encode_getLastPosition_toNat (ch : ChannelIndex) :
    (encode (.getLastPosition ch)).toNat = 0x090000000000 + ch.toNat * 2 ^ 32 := by
  simp [encode_toNat, opcode, chField, dataField]

/-! ### Channels by index -/

/-- R81: an index that names a channel is that channel's number. -/
theorem toNat_of_channelOf_eq_some {ch : ChannelIndex} {i : Channel} (h : channelOf ch = some i) :
    ch.toNat = i.val := by
  rcases lt_or_ge ch.toNat 8 with hlt | hge
  · cases (channelOf_of_lt hlt).symm.trans h
    rfl
  · cases (channelOf_of_ge hge).symm.trans h

/-- Two indices that name the same channel are the same (R81). -/
theorem eq_of_channelOf_eq_some {ch other : ChannelIndex} {i : Channel} (hch : channelOf ch = some i)
    (hother : channelOf other = some i) : other = ch :=
  BitVec.eq_of_toNat_eq ((toNat_of_channelOf_eq_some hother).trans (toNat_of_channelOf_eq_some hch).symm)

/-! ### Effects -/

/-- R77, R81: the count of the channel that an index names, or 0. -/
def countRead (ch : ChannelIndex) (s : State) : Count := (channelOf ch).elim 0 s.countAt

@[simp] theorem countRead_respond (ch : ChannelIndex) (err ok : Bool) (data : Data) (s : State) :
    countRead ch (respond err ok data s) = countRead ch s := rfl

theorem countRead_of_channel {ch : ChannelIndex} {i : Channel} (h : channelOf ch = some i) (s : State) :
    countRead ch s = s.countAt i := by
  rw [countRead, h, Option.elim_some]

theorem countRead_of_no_channel {ch : ChannelIndex} (h : channelOf ch = none) (s : State) : countRead ch s = 0 := by
  rw [countRead, h, Option.elim_none]

/-- R77: GET_COUNT answers what its index reads, and writes the response alone. -/
theorem exec_getCount (ch : ChannelIndex) (s : State) :
    exec (.getCount ch) s = .next (respond false true (countRead ch s) s) := by
  cases h : channelOf ch with
  | none => simp [exec, execGetCount, countRead, h]
  | some i => simp [exec, execGetCount, countRead, h]

/-- R79: GET_LAST_POSITION answers the last position of the channel that its index names, or 0. -/
theorem exec_getLastPosition (ch : ChannelIndex) (s : State) :
    exec (.getLastPosition ch) s
      = .next (respond false true ((channelOf ch).elim 0 fun i => zext32 (s.lastPosAt i)) s) := by
  cases h : channelOf ch with
  | none => simp [exec, execGetLastPosition, h]
  | some i => simp [exec, execGetLastPosition, h]

/-- R78: SET_COUNT with an index that names a channel writes that channel's count. -/
theorem exec_setCount_of_channel {ch : ChannelIndex} {i : Channel} (h : channelOf ch = some i) (value : Count)
    (s : State) : exec (.setCount ch value) s = .next (respond false true 0 (writeCount i value s)) := by
  simp [exec, execSetCount, h]

/-- R78: SET_COUNT with an index that names no channel writes nothing and answers `ok = 0`. -/
theorem exec_setCount_of_no_channel {ch : ChannelIndex} (h : channelOf ch = none) (value : Count) (s : State) :
    exec (.setCount ch value) s = .next (respond false false 0 s) := by
  simp [exec, execSetCount, h]

/-- After a count is written, the written channel's index reads the value, and every other index reads as before. -/
theorem countRead_writeCount {ch : ChannelIndex} {i : Channel} (hch : channelOf ch = some i) (other : ChannelIndex)
    (value : Count) (s : State) :
    countRead other (writeCount i value s) = if other = ch then value else countRead other s := by
  split
  case isTrue heq => rw [heq, countRead_of_channel hch, writeCount_countAt, if_pos rfl]
  case isFalse hne =>
    cases hother : channelOf other with
    | none => rw [countRead_of_no_channel hother, countRead_of_no_channel hother]
    | some k =>
      have hk : k ≠ i := fun hki => hne (eq_of_channelOf_eq_some hch (hki ▸ hother))
      rw [countRead_of_channel hother, countRead_of_channel hother, writeCount_countAt, if_neg hk]

/-- R80: GET_CONFIGURED_COUNT answers `cc` as a number. -/
theorem exec_getConfiguredCount (s : State) :
    exec .getConfiguredCount s = .next (respond false true (BitVec.ofNat 32 s.cc.toNat) s) := by
  rw [exec, execGetConfiguredCount, zext32_eq_ofNat]

/-! ### The statements -/

/-- Settles O43: the index names its channel or none, and the response is all that is written. -/
theorem getCountReadsChannelOrZero : Obligations.GetCountReadsChannelOrZero := by
  refine fun ch s => ⟨encode_getCount_toNat ch, fun w hop hch => decode_of_commandCh hop hch rfl, fun h => ?_,
    fun h => ?_⟩
  · rw [exec_getCount, countRead_of_channel (channelOf_of_lt h)]
    rfl
  · rw [exec_getCount, countRead_of_no_channel (channelOf_of_ge h)]
    rfl

/-- Settles O44: in range the write of one count and the response, out of range the response alone. -/
theorem setCountWritesOneCount : Obligations.SetCountWritesOneCount := by
  refine fun ch value s => ⟨encode_setCount_toNat ch value, fun w hop hch hdata => ?_, fun h => ?_, fun h => ?_⟩
  · exact decode_of_fieldsMatch ⟨hop, fun _ => hch, fun _ => hdata⟩
  · refine ⟨_, exec_setCount_of_channel (channelOf_of_lt h) value s, fun i => ?_, rfl, rfl, rfl, rfl, rfl, rfl⟩
    simp only [respond_countAt, writeCount_countAt, Fin.ext_iff]
  · exact exec_setCount_of_no_channel (channelOf_of_ge h) value s

/-- Settles O45: as O43, on the last position. -/
theorem getLastPositionReadsChannelOrZero : Obligations.GetLastPositionReadsChannelOrZero := by
  refine fun ch s => ⟨encode_getLastPosition_toNat ch, fun w hop hch => decode_of_commandCh hop hch rfl, fun h => ?_,
    fun h => ?_⟩
  · rw [exec_getLastPosition, channelOf_of_lt h, Option.elim_some, zext32_eq_ofNat]
    rfl
  · rw [exec_getLastPosition, channelOf_of_ge h]
    rfl

/-- Settles O46: the answer has the number of `cc`, which the invariant bounds. -/
theorem getConfiguredCountReadsCount : Obligations.GetConfiguredCountReadsCount := by
  refine ⟨fun w hop => decode_of_commandOp hop rfl rfl, rfl, exec_getConfiguredCount, rfl, fun s ⟨hcc, _⟩ => ?_⟩
  rw [BitVec.toNat_ofNat]
  exact (Nat.mod_le _ _).trans hcc

/-- Settles O48: in range SET_COUNT writes the count that its index reads, and out of range nothing. -/
theorem setCountThenGetCountReadsBack : Obligations.SetCountThenGetCountReadsBack := by
  intro ch other value s t u v ht hu hv
  cases (exec_getCount other t).symm.trans hu
  cases (exec_getCount other s).symm.trans hv
  rw [respond_phase, respond_phase]
  rcases lt_or_ge ch.toNat 8 with hlt | hge
  · have hch := channelOf_of_lt hlt
    cases (exec_setCount_of_channel hch value s).symm.trans ht
    rw [countRead_respond, countRead_writeCount hch]
    by_cases heq : other = ch
    · rw [if_pos heq, if_pos ⟨heq, hlt⟩]
    · rw [if_neg heq, if_neg fun h => heq h.1]
  · cases (exec_setCount_of_no_channel (channelOf_of_ge hge) value s).symm.trans ht
    rw [countRead_respond, if_neg fun h => absurd h.2 (Nat.not_lt.2 hge)]

end Sys2Proof.Machine

/-!
Faults and refusals (R82, R83; assumptions 9 and 1): the model has none.
-/
namespace Sys2Proof.Machine

/-- Settles O15: each kind of step that `Stepped` lists, an accepted command and a step on no inputs among them,
answers its next state. -/
theorem everyStepHasNextState : Obligations.EveryStepHasNextState := by
  intro s
  obtain ⟨t, hnext, -⟩ := step_cases s
  exact ⟨t, hnext⟩

end Sys2Proof.Machine

/-!
Reset (R96, R99) and late answers (R97): what a reset step leaves, what RESET_ALL clears of it, and that a step reads
nothing of an acknowledge but the value it delivers.
-/
namespace Sys2Proof.Machine

/-! ### Reset -/

/-- R96: under reset no handshake of R46 is raised, in any phase. -/
theorem ports_low_of_reset {s : State} (hr : s.pins.rst = true) :
    cmdReady s = false ∧ rspValid s = false ∧ snapReq s = false ∧ connReq s = false := by
  simp [cmdReady, rspValid, rspOffered, snapReq, connReq, hr]

/-- Settles O2: the step is the RESET event, and each port is gated by `rst`. -/
theorem resetEventOverridesEveryPhase : Obligations.ResetEventOverridesEveryPhase :=
  fun _ hr => ⟨step_of_reset hr, ports_low_of_reset hr⟩

/-- The registers that RESET_ALL zeroes hold what a RESET event leaves in them. -/
theorem cleared_eq_resetEvent (s : State) :
    (writeCounts (fun _ => 0) s).count = (resetEvent s).count ∧
      (writeLastPositions (fun _ => 0) s).lastPos = (resetEvent s).lastPos ∧
      (writeLastSnap 0 s).lastSnap = (resetEvent s).lastSnap :=
  ⟨rfl, rfl, rfl⟩

/-- Settles O4: RESET_ALL writes three of the five registers that a RESET event writes, and `cc` is not among them. -/
theorem resetAllClearsWhatResetClears : Obligations.ResetAllClearsWhatResetClears := by
  intro s
  obtain ⟨hcount, hpos, hsnap⟩ := cleared_eq_resetEvent s
  exact ⟨_, exec_resetAll s, hcount, hpos, hsnap, rfl, rfl, rfl⟩

/-! ### What a step reads of an acknowledge -/

/-- Two steps' pins that differ at most in the form of an acknowledge: what is delivered is the same. -/
structure SameDelivery (p q : Pins) : Prop where
  rst : p.rst = q.rst
  cmd : p.cmd = q.cmd
  rspReady : p.rspReady = q.rspReady
  snapAck : p.snapAck.delivered = q.snapAck.delivered
  connAck : p.connAck.delivered = q.connAck.delivered

theorem sameDelivery_late_snapAck (p : Pins) (S : Snapshot) :
    SameDelivery { p with snapAck := .late S } { p with snapAck := .absent } := ⟨rfl, rfl, rfl, rfl, rfl⟩

theorem sameDelivery_late_connAck (p : Pins) (b : Bool) :
    SameDelivery { p with connAck := .late b } { p with connAck := .absent } := ⟨rfl, rfl, rfl, rfl, rfl⟩

/-- A step in `WAIT_SNAP(op)`, by what the acknowledge delivers. -/
theorem tick_waitForSnap_setInputs (op : SnapOp) (p : Pins) (rest : List Pins) (s : State) :
    tick (waitForSnap op (setInputs (p :: rest) s))
      = setInputs rest (p.snapAck.delivered.elim s fun S => snapCommit op S s) := by
  cases hS : p.snapAck.delivered with
  | none =>
    rw [waitForSnap_of_undelivered (s := setInputs (p :: rest) s) hS]
    rfl
  | some S =>
    rw [waitForSnap_of_delivered (s := setInputs (p :: rest) s) hS, snapCommit_setInputs]
    rfl

/-- A step in `WAIT_CONN(n)`, by what the acknowledge delivers. -/
theorem tick_waitForConn_setInputs (n : Data) (p : Pins) (rest : List Pins) (s : State) :
    tick (waitForConn n (setInputs (p :: rest) s))
      = setInputs rest (p.connAck.delivered.elim s fun b => initCommit n b s) := by
  cases hb : p.connAck.delivered with
  | none =>
    rw [waitForConn_of_undelivered (s := setInputs (p :: rest) s) hb]
    rfl
  | some b =>
    rw [waitForConn_of_delivered (s := setInputs (p :: rest) s) hb]
    rfl

/-- A command accepted on pins with the same delivery leaves the same state, once those pins are used up. -/
theorem exec_congr_of_sameDelivery {p q : Pins} (h : SameDelivery p q) {rest : List Pins} {s u : State} {i : Instr}
    (he : exec i (setInputs (p :: rest) s) = .next u) :
    ∃ v, exec i (setInputs (q :: rest) s) = .next v ∧ tick v = tick u := by
  have hinputs : u.inputs = p :: rest := exec_inputs he
  refine ⟨_, exec_setInputs (s := setInputs (p :: rest) s) (l := q :: rest) he h.snapAck.symm h.connAck.symm, ?_⟩
  rw [tick_setInputs_cons, tick_eq, hinputs, List.tail_cons]

/-- In `IDLE` without a command nothing happens. -/
theorem step_of_no_command {s : State} (hr : s.pins.rst = false) (hp : s.phase = .idle) (hc : s.pins.cmd = none) :
    step s = .next (tick s) := by
  simp [step, hr, hp, hc]

/-- R97: each kind of step reads `rst`, and then the command port, `rsp_ready` or what one acknowledge delivers. -/
theorem step_congr_of_sameDelivery {p q : Pins} (h : SameDelivery p q) (rest : List Pins) (s : State) :
    step (setInputs (p :: rest) s) = step (setInputs (q :: rest) s) := by
  obtain ⟨t, ht, hc⟩ := step_cases (setInputs (p :: rest) s)
  rw [ht]
  symm
  cases hc with
  | reset hr => exact step_of_reset (s := setInputs (q :: rest) s) (h.rst.symm.trans hr)
  | quiet hr hp hcmd =>
    exact step_of_no_command (s := setInputs (q :: rest) s) (h.rst.symm.trans hr) hp (h.cmd.symm.trans hcmd)
  | command w i u hr hp hcmd hd he =>
    obtain ⟨v, hv, hvu⟩ := exec_congr_of_sameDelivery (s := acceptCommand w s) h he
    rw [← hvu]
    exact step_of_command (s := setInputs (q :: rest) s) (h.rst.symm.trans hr) hp (h.cmd.symm.trans hcmd) hd hv
  | illegal w e hr hp hcmd hd =>
    exact step_of_reserved (s := setInputs (q :: rest) s) (h.rst.symm.trans hr) hp (h.cmd.symm.trans hcmd) hd
  | waitSnap op hr hp =>
    rw [step_of_waitSnap (s := setInputs (q :: rest) s) (h.rst.symm.trans hr) hp, tick_waitForSnap_setInputs,
      tick_waitForSnap_setInputs, h.snapAck]
  | waitConn n hr hp =>
    rw [step_of_waitConn (s := setInputs (q :: rest) s) (h.rst.symm.trans hr) hp, tick_waitForConn_setInputs,
      tick_waitForConn_setInputs, h.connAck]
  | respond r hr hp =>
    rw [step_of_respond (s := setInputs (q :: rest) s) (h.rst.symm.trans hr) hp,
      tick_offerResponse_congr r s rest h.rspReady]

/-- Settles O3: a late acknowledge delivers nothing, as an absent one. -/
theorem lateTransportAnswerIsIgnored : Obligations.LateTransportAnswerIsIgnored :=
  fun s p rest =>
    ⟨fun S => step_congr_of_sameDelivery (sameDelivery_late_snapAck p S) rest s,
      fun b => step_congr_of_sameDelivery (sameDelivery_late_connAck p b) rest s⟩

end Sys2Proof.Machine

/-!
The end of a run (R109; assumption 13): which step ends it, and that it stays ended.
-/
namespace Sys2Proof.Machine

/-- A step that reaches `IDLE` adds nothing to the port history, or hands over the response that was held. -/
theorem step_to_idle {s t : State} (h : step s = .next t) (ht : t.phase = .idle) :
    t.trace = s.trace ∨
      ∃ r, s.pins.rst = false ∧ s.phase = .respond r ∧ s.pins.rspReady = true ∧ t.trace = .response r :: s.trace := by
  cases stepped_of_step h with
  | reset => exact .inl rfl
  | quiet => exact .inl rfl
  | command w i u _ _ _ _ he => exact absurd ht (exec_ports he).1
  | illegal => cases ht
  | waitSnap op => exact .inl (waitForSnap_ports op s).1
  | waitConn n => exact .inl (waitForConn_ports n s).1
  | respond r hr hp =>
    cases hready : s.pins.rspReady with
    | false => exact .inl (by rw [offerResponse_of_not_ready hready, tick_trace])
    | true => exact .inr ⟨r, hr, hp, rfl, by rw [offerResponse_of_ready hready]; rfl⟩

/-- In a run no command is in progress once the last one accepted is answered (R24), so the phase is `IDLE` in every
state with the history of an ended one. -/
theorem RunEnded.of_trace_eq {start : List PortEvent} {program : List CommandWord} {s t : State}
    (ht : RunEnded start program t) (hs : InRun start s) (htrace : t.trace = s.trace) : RunEnded start program s := by
  obtain ⟨-, events, hevents, hprogram, hopen⟩ := ht
  obtain ⟨events', hevents', -, hbusy⟩ := hs
  obtain rfl : events = events' := List.append_cancel_right (hevents.symm.trans (htrace.trans hevents'))
  refine ⟨?_, events, hevents', hprogram, hopen⟩
  by_contra hp
  simpa [hopen] using hbusy hp

/-- A response that is taken ends a run exactly when the commands accepted before it are the program. -/
theorem runEnded_iff_of_response {start : List PortEvent} {program : List CommandWord} {s t : State}
    {r : ResponseWord} (hs : InRun start s) (ht : t.phase = .idle) (htrace : t.trace = .response r :: s.trace) :
    RunEnded start program t ↔ ∃ events, s.trace = events ++ start ∧ commandsAccepted events = program := by
  constructor
  · rintro ⟨-, events, hevents, hprogram, -⟩
    obtain ⟨events', hevents', -, -⟩ := hs
    obtain rfl : events = .response r :: events' :=
      List.append_cancel_right (hevents.symm.trans (by rw [htrace, hevents', List.cons_append]))
    exact ⟨events', hevents', hprogram⟩
  · rintro ⟨events, hevents, hprogram⟩
    exact ⟨ht, .response r :: events, by rw [htrace, hevents, List.cons_append], hprogram, rfl⟩

/-- Settles O24: only the step that takes the response can end the run, and it does so by the commands accepted. -/
theorem runEndsWhenLastResponseIsTaken : Obligations.RunEndsWhenLastResponseIsTaken := by
  refine fun start program s t hs => ⟨fun hp hended => hp hended.1, fun hnot h => ⟨fun hended => ?_, ?_⟩⟩
  · rcases step_to_idle h hended.1 with htrace | ⟨r, hr, hp, hready, htrace⟩
    · exact absurd (hended.of_trace_eq hs htrace) hnot
    · exact ⟨hr, ⟨r, hp⟩, hready, (runEnded_iff_of_response hs hended.1 htrace).1 hended⟩
  · rintro ⟨hr, ⟨r, hp⟩, hready, hprogram⟩
    rw [step_of_respond hr hp, offerResponse_of_ready hready] at h
    cases h
    exact (runEnded_iff_of_response (r := r) hs rfl rfl).2 hprogram

/-- A step in `IDLE` that accepts no command is a reset, or only uses up its inputs. -/
theorem step_idle_of_not_accepts {s t : State} (hp : s.phase = .idle) (ha : accepts s = false)
    (h : step s = .next t) :
    (s.pins.rst = true ∧ t = tick (resetEvent s)) ∨ (s.pins.rst = false ∧ t = setInputs s.inputs.tail s) := by
  cases hr : s.pins.rst with
  | true =>
    cases (step_of_reset hr).symm.trans h
    exact .inl ⟨rfl, rfl⟩
  | false =>
    have hcmd : s.pins.cmd = none := by simpa [accepts, cmdReady, hp, hr] using ha
    cases (step_of_no_command hr hp hcmd).symm.trans h
    exact .inr ⟨rfl, tick_eq s⟩

/-- Settles O25: an ended run is in `IDLE`, and neither kind of step left there adds to the port history. -/
theorem endedRunStaysEnded : Obligations.EndedRunStaysEnded := by
  intro start program s t ⟨hp, hhistory⟩ ha h
  rcases step_idle_of_not_accepts hp ha h with ⟨hr, rfl⟩ | ⟨-, rfl⟩
  · exact ⟨⟨rfl, hhistory⟩, fun hr' => by simp [hr] at hr'⟩
  · exact ⟨⟨hp, hhistory⟩, fun _ => rfl⟩

end Sys2Proof.Machine

/-!
What UPDATE counts of a rotation (R101, R102): spurious steps from positions that were not primed, and the exact
rotation of a channel that is sampled often enough.
-/
namespace Sys2Proof.Machine

/-! ### An unprimed start -/

/-- Settles O41: a snapshot that shows any of the three fields differs from the zero cache, so the lane runs from
position 0; the zero snapshot exits early. -/
theorem unprimedStartCountsSpuriousSteps : Obligations.UnprimedStartCountsSpuriousSteps := by
  intro s S i hcache hpos hactive hS
  by_cases hne : S = s.lastSnap
  · have hfield : field S i = 0 := by
      rw [hne, hcache]
      exact field_zero i
    rw [hne] at hS
    exact ⟨_, _, exec_update_of_eq hS, exec_updateWeighted_of_eq hS, by simp [hfield], by simp [hfield],
      by simp [hfield], fun _ => ⟨rfl, rfl, rfl, rfl⟩⟩
  · have hcount : ∀ d, (decoded d S s).countAt i = laneCount d (s.countAt i) 0#2 (field S i) := fun d => by
      rw [decoded_countAt, if_pos hactive, hpos]
    refine ⟨_, _, exec_update_eq_decoded hS hne, exec_updateWeighted_eq_decoded hS hne, fun h => ?_, fun h => ?_,
      fun h => ?_, fun hzero => absurd (hzero.trans hcache.symm) hne⟩
    all_goals simp [hcount, h, laneCount_deltaU, laneCount_deltaW]

/-! ### Rotation -/

/-- R16: the field a channel shows repeats every four Gray steps. -/
theorem fieldAtRotation_emod_add (p d : Int) : fieldAtRotation (p % 4 + d) = fieldAtRotation (p + d) := by
  simp [fieldAtRotation]

/-- The sixteen-row table at the four positions of one turn, for one step back, none and one forward. -/
theorem deltaU_classify_within_turn :
    ∀ a ∈ [(0 : Int), 1, 2, 3], ∀ d ∈ [(-1 : Int), 0, 1],
      deltaU (classify (transitionCode (fieldAtRotation (a + 0)) (fieldAtRotation (a + d)))) = d := by
  decide

/-- R66, R67: UPDATE's delta is the signed rotation, if that is at most one Gray step. -/
theorem deltaU_classify_rotation {p q : Int} (h : (q - p).natAbs ≤ 1) :
    deltaU (classify (transitionCode (fieldAtRotation p) (fieldAtRotation q))) = q - p := by
  have ha : p % 4 ∈ [(0 : Int), 1, 2, 3] := by
    simp only [List.mem_cons, List.not_mem_nil, or_false]
    omega
  have hd : q - p ∈ [(-1 : Int), 0, 1] := by
    simp only [List.mem_cons, List.not_mem_nil, or_false]
    omega
  have hstep := deltaU_classify_within_turn _ ha _ hd
  rwa [fieldAtRotation_emod_add, fieldAtRotation_emod_add, add_zero, add_sub_cancel] at hstep

/-- A channel that has not moved keeps its count. -/
theorem laneCount_deltaU_self (c : Count) (p : Position) : laneCount deltaU c p p = c := by
  have hnone : classify (transitionCode p p) = .noChange := by
    revert p
    decide
  simp [laneCount, addDelta, hnone, deltaU]

/-! ### One UPDATE -/

/-- Channel `i` is active, and its last position and its field of the cache both show rotation position `p`. -/
structure ShowsAt (i : Channel) (p : Int) (s : State) : Prop where
  active : s.active i = true
  lastPosAt : s.lastPosAt i = fieldAtRotation p
  cached : field s.lastSnap i = fieldAtRotation p

/-- R69, R72: for a channel whose position is the one the cache shows, the early exit of UPDATE does what the lane
would do. -/
theorem exec_update_tracked {s u : State} {S : Snapshot} {i : Channel} (hS : s.pins.snapAck.delivered = some S)
    (hactive : s.active i = true) (htracked : s.lastPosAt i = field s.lastSnap i) (h : exec .update s = .next u) :
    u.active i = true ∧ u.lastSnap = S ∧ u.lastPosAt i = field S i ∧
      u.countAt i = laneCount deltaU (s.countAt i) (s.lastPosAt i) (field S i) := by
  by_cases hne : S = s.lastSnap
  · subst hne
    cases (exec_update_of_eq hS).symm.trans h
    refine ⟨hactive, rfl, htracked, ?_⟩
    rw [← htracked, laneCount_deltaU_self]
    rfl
  · cases (exec_update_eq_decoded hS hne).symm.trans h
    exact ⟨hactive, rfl, by rw [decoded_lastPosAt, if_pos hactive], by rw [decoded_countAt, if_pos hactive]⟩

/-- R102: an UPDATE that finds the channel at most one Gray step on counts that step. -/
theorem ShowsAt.update {i : Channel} {p q : Int} {s u : State} {S : Snapshot} (hs : ShowsAt i p s)
    (hS : s.pins.snapAck.delivered = some S) (hfield : field S i = fieldAtRotation q) (hnear : (q - p).natAbs ≤ 1)
    (h : exec .update s = .next u) :
    ShowsAt i q u ∧ u.countAt i = s.countAt i + BitVec.ofInt 32 (q - p) := by
  obtain ⟨hactive, hsnap, hpos, hcount⟩ :=
    exec_update_tracked hS hs.active (hs.lastPosAt.trans hs.cached.symm) h
  rw [hfield] at hpos
  refine ⟨⟨hactive, hpos, by rw [hsnap, hfield]⟩, ?_⟩
  rw [hcount, hs.lastPosAt, hfield, laneCount, addDelta, deltaU_classify_rotation hnear]

/-! ### Any number of UPDATEs -/

/-- R102: the steps that the UPDATEs count add up to the rotation. -/
theorem ShowsAt.polled {i : Channel} {snaps : List Snapshot} {s t : State} {p q : Int} (hs : ShowsAt i p s)
    (hsampled : SampledOften i snaps p q) (hpolled : Polled snaps s t) :
    t.countAt i = s.countAt i + BitVec.ofInt 32 (q - p) := by
  induction snaps generalizing s p with
  | nil =>
    obtain rfl : q = p := hsampled
    obtain rfl : t = s := hpolled
    simp
  | cons S rest ih =>
    obtain ⟨p', hnear, hfield, hrest⟩ := hsampled
    obtain ⟨u, hu, hpolled'⟩ := hpolled
    have hs' : ShowsAt i p (setInputs [answeringSnap S] s) := ⟨hs.active, hs.lastPosAt, hs.cached⟩
    obtain ⟨hshows, hcount⟩ := hs'.update rfl hfield hnear hu
    calc t.countAt i
        = u.countAt i + BitVec.ofInt 32 (q - p') := ih hshows hrest hpolled'
      _ = s.countAt i + BitVec.ofInt 32 (p' - p) + BitVec.ofInt 32 (q - p') := by rw [hcount, setInputs_countAt]
      _ = s.countAt i + BitVec.ofInt 32 (q - p) := by
        rw [BitVec.add_assoc, ← BitVec.ofInt_add, add_comm (p' - p), sub_add_sub_cancel]

/-- Settles O42: the hypotheses are that the channel shows `p`, and each UPDATE keeps that for its own position. -/
theorem countsFollowRotationWhenSampledOften : Obligations.CountsFollowRotationWhenSampledOften :=
  fun _ _ _ _ _ _ hactive hpos hcached => ShowsAt.polled ⟨hactive, hpos, hcached⟩

end Sys2Proof.Machine
